-- ==== Sys2Proof/Syntax.lean ====
section
/-! DEFINITION. The commands of the core: one constructor for each row of spec/opcode_table.json (30_encoding.md R103). -/

namespace Sys2Proof

/-- A command. Only SM4_ROUND and SM3_PADBLK have an operand, the index IDX (30_encoding.md R102). -/
inductive Instr where
  /-- NOP, 0x00 (40_command_cycle.md R140). -/
  | nop
  /-- SM4_SBOX, 0x01 (42_sm4_commands.md R200). -/
  | sm4Sbox
  /-- SM4_TAU, 0x02 (R201). -/
  | sm4Tau
  /-- SM4_L, 0x03 (R202). -/
  | sm4L
  /-- SM4_LK, 0x04 (R203). -/
  | sm4Lk
  /-- SM4_T, 0x05 (R204). -/
  | sm4T
  /-- SM4_TK, 0x06 (R205). -/
  | sm4Tk
  /-- SM4_ROUND, 0x07, `idx` the round-key index (R206). -/
  | sm4Round (idx : Nat)
  /-- SM4_KEYEXP, 0x08 (R207). -/
  | sm4Keyexp
  /-- SM4_ENC, 0x09 (R208). -/
  | sm4Enc
  /-- SM4_DEC, 0x0A (R209). -/
  | sm4Dec
  /-- SM4_FINAL, 0x0B (R210). -/
  | sm4Final
  /-- SM3_INIT, 0x10 (44_sm3_commands.md R280). -/
  | sm3Init
  /-- SM3_P0, 0x11 (R281). -/
  | sm3P0
  /-- SM3_P1, 0x12 (R282). -/
  | sm3P1
  /-- SM3_PADBLK, 0x13, `idx` the block index (R283). -/
  | sm3Padblk (idx : Nat)
  /-- SM3_EXPAND, 0x14 (R284). -/
  | sm3Expand
  /-- SM3_COMPRESS, 0x15 (R285). -/
  | sm3Compress
  /-- SM3_DIGEST, 0x16 (R286). -/
  | sm3Digest
  deriving DecidableEq, Repr

end Sys2Proof
end

