-- ==== Sys2Proof/WellFormed.lean ====
section
/-! DEFINITION. Which commands have a command word: the index operand fits the 24-bit IDX field (30_encoding.md R100, R101). -/

namespace Sys2Proof

/-- The index operand, 0 for a command without one (30_encoding.md R102, R104). -/
def Instr.idx : Instr → Nat
  | .sm4Round idx => idx
  | .sm3Padblk idx => idx
  | .nop | .sm4Sbox | .sm4Tau | .sm4L | .sm4Lk | .sm4T | .sm4Tk | .sm4Keyexp | .sm4Enc | .sm4Dec | .sm4Final
  | .sm3Init | .sm3P0 | .sm3P1 | .sm3Expand | .sm3Compress | .sm3Digest => 0

/-- "IDX is read as an unsigned 24-bit integer" (R101). An index out of the command's legal range is still well formed:
it decodes, and the command then raises E_RANGE (R102). -/
def Instr.wf (i : Instr) : Bool := decide (i.idx < 2 ^ 24)

end Sys2Proof
end

