-- ==== Sys2Proof/Word.lean ====
section
/-! DEFINITION. The word, the byte and the 128-bit block of the core (00_scope.md R7, R9, R14). -/

namespace Sys2Proof

/-- "Every 'word' is 32 bits" (00_scope.md R9). -/
abbrev Word := BitVec 32

/-- One byte of the MSG buffer or of the S-box. -/
abbrev Byte := BitVec 8

/-- Block128 (00_scope.md R14): a 128-bit value as four words, `w0` the most significant (10_state.md R38). -/
structure Block128 where
  w0 : Word
  w1 : Word
  w2 : Word
  w3 : Word
  deriving DecidableEq, Repr

end Sys2Proof
end

