-- ==== Sys2Proof/Decode.lean ====
section
/-! DEFINITION. Decoding and encoding of the 32-bit command word (30_encoding.md R100 to R106). -/

namespace Sys2Proof

/-- OP = CMD[7:0] (R100). -/
def opField (c : Word) : BitVec 8 := c.extractLsb' 0 8

/-- IDX = CMD[31:8] (R100). -/
def idxField (c : Word) : BitVec 24 := c.extractLsb' 8 24

/-- Why a word is ILLEGAL (R105): a reserved OP, or a no-operand OP with IDX != 0. -/
inductive IllegalReason where
  | reservedOp (op : BitVec 8)
  | strayIdx (op : BitVec 8) (idx : Nat)
  deriving DecidableEq, Repr

/-- The result of `decode` (R104): a command, or ILLEGAL. -/
inductive Decoded where
  | command (i : Instr)
  | illegal (why : IllegalReason)
  deriving DecidableEq, Repr

/-- The no-operand rows of the opcode map (R103). -/
def noOperandOps : List (BitVec 8 × Instr) :=
  [ (0x00, .nop), (0x01, .sm4Sbox), (0x02, .sm4Tau), (0x03, .sm4L), (0x04, .sm4Lk), (0x05, .sm4T), (0x06, .sm4Tk),
    (0x08, .sm4Keyexp), (0x09, .sm4Enc), (0x0A, .sm4Dec), (0x0B, .sm4Final),
    (0x10, .sm3Init), (0x11, .sm3P0), (0x12, .sm3P1), (0x14, .sm3Expand), (0x15, .sm3Compress), (0x16, .sm3Digest) ]

/-- The decoder of R104, total on 32-bit words. -/
def decode (c : Word) : Decoded :=
  let op := opField c
  let idx := (idxField c).toNat
  if op = 0x07 then .command (.sm4Round idx)
  else if op = 0x13 then .command (.sm3Padblk idx)
  else
    match noOperandOps.lookup op with
    | some i => if idx = 0 then .command i else .illegal (.strayIdx op idx)
    | none => .illegal (.reservedOp op)

/-- The command a decoding gives, none for ILLEGAL. -/
def Decoded.instr? : Decoded → Option Instr
  | .command i => some i
  | .illegal _ => none

/-- The OP column of the opcode map (R103). -/
def Instr.opcode : Instr → BitVec 8
  | .nop => 0x00
  | .sm4Sbox => 0x01
  | .sm4Tau => 0x02
  | .sm4L => 0x03
  | .sm4Lk => 0x04
  | .sm4T => 0x05
  | .sm4Tk => 0x06
  | .sm4Round _ => 0x07
  | .sm4Keyexp => 0x08
  | .sm4Enc => 0x09
  | .sm4Dec => 0x0A
  | .sm4Final => 0x0B
  | .sm3Init => 0x10
  | .sm3P0 => 0x11
  | .sm3P1 => 0x12
  | .sm3Padblk _ => 0x13
  | .sm3Expand => 0x14
  | .sm3Compress => 0x15
  | .sm3Digest => 0x16

/-- The command word of a well-formed command: IDX in bits 31:8, OP in bits 7:0 (R100). -/
def encode (i : Instr) : Word := BitVec.ofNat 24 i.idx ++ i.opcode

/-- The mnemonic column of the opcode map (R103). -/
def Instr.mnemonic : Instr → String
  | .nop => "NOP"
  | .sm4Sbox => "SM4_SBOX"
  | .sm4Tau => "SM4_TAU"
  | .sm4L => "SM4_L"
  | .sm4Lk => "SM4_LK"
  | .sm4T => "SM4_T"
  | .sm4Tk => "SM4_TK"
  | .sm4Round _ => "SM4_ROUND"
  | .sm4Keyexp => "SM4_KEYEXP"
  | .sm4Enc => "SM4_ENC"
  | .sm4Dec => "SM4_DEC"
  | .sm4Final => "SM4_FINAL"
  | .sm3Init => "SM3_INIT"
  | .sm3P0 => "SM3_P0"
  | .sm3P1 => "SM3_P1"
  | .sm3Padblk _ => "SM3_PADBLK"
  | .sm3Expand => "SM3_EXPAND"
  | .sm3Compress => "SM3_COMPRESS"
  | .sm3Digest => "SM3_DIGEST"

/-- A row of spec/opcode_table.json: its mnemonic, match and mask. -/
structure OpcodeRow where
  mnemonic : String
  pattern : Word
  mask : Word
  deriving DecidableEq, Repr

/-- A word matches a row when it equals the pattern on the mask's bits. -/
def OpcodeRow.accepts (r : OpcodeRow) (c : Word) : Bool := (c &&& r.mask) == r.pattern

/-- spec/opcode_table.json, row by row. -/
def opcodeTable : List OpcodeRow :=
  [ ⟨"NOP", 0x00000000, 0xFFFFFFFF⟩, ⟨"SM4_SBOX", 0x00000001, 0xFFFFFFFF⟩, ⟨"SM4_TAU", 0x00000002, 0xFFFFFFFF⟩,
    ⟨"SM4_L", 0x00000003, 0xFFFFFFFF⟩, ⟨"SM4_LK", 0x00000004, 0xFFFFFFFF⟩, ⟨"SM4_T", 0x00000005, 0xFFFFFFFF⟩,
    ⟨"SM4_TK", 0x00000006, 0xFFFFFFFF⟩, ⟨"SM4_ROUND", 0x00000007, 0x000000FF⟩, ⟨"SM4_KEYEXP", 0x00000008, 0xFFFFFFFF⟩,
    ⟨"SM4_ENC", 0x00000009, 0xFFFFFFFF⟩, ⟨"SM4_DEC", 0x0000000A, 0xFFFFFFFF⟩, ⟨"SM4_FINAL", 0x0000000B, 0xFFFFFFFF⟩,
    ⟨"SM3_INIT", 0x00000010, 0xFFFFFFFF⟩, ⟨"SM3_P0", 0x00000011, 0xFFFFFFFF⟩, ⟨"SM3_P1", 0x00000012, 0xFFFFFFFF⟩,
    ⟨"SM3_PADBLK", 0x00000013, 0x000000FF⟩, ⟨"SM3_EXPAND", 0x00000014, 0xFFFFFFFF⟩,
    ⟨"SM3_COMPRESS", 0x00000015, 0xFFFFFFFF⟩, ⟨"SM3_DIGEST", 0x00000016, 0xFFFFFFFF⟩ ]

/-- The command word whose low `nbits` bits are `w`, the bits above them zero. A command is exactly one 32-bit word
(R106), written whole to CMD, so the table's bit numbers are the word's own. -/
def tableWord (nbits w : Nat) : Word := BitVec.ofNat 32 (w % 2 ^ nbits)

/-- What the decoder reads from a table word; none where the word is ILLEGAL. -/
def decodeTableWord (nbits w : Nat) : Option Instr := (decode (tableWord nbits w)).instr?

end Sys2Proof
end

