-- ==== Sys2Proof/Machine/Bits.lean ====
section
/-! DEFINITION. Rotation, big-endian byte packing, the words of a Block128, and word sequences given by a recurrence
(00_scope.md R9 to R11; 10_state.md R38; 20_memory.md R76). -/

namespace Sys2Proof.Machine

/-- `rol(x, n)`, the cyclic left rotation by n mod 32, as R11 writes it. -/
def rol (x : Word) (n : Nat) : Word := (x <<< (n % 32)) ||| (x >>> (32 - n % 32))

/-- Byte `k` of a word counted from the most significant, k = 0..3: the big-endian order of 20_memory.md R76. -/
def byteOf (x : Word) (k : Nat) : Byte := (x >>> (8 * (3 - k))).setWidth 8

/-- `b0 || b1 || b2 || b3`, b0 in the high bits (R10; 20_memory.md R78). -/
def packBytes (b0 b1 b2 b3 : Byte) : Word := b0 ++ b1 ++ b2 ++ b3

/-- Word i of a 128-bit register. -/
def blockWord (x : Block128) (i : Fin 4) : Word :=
  match i with
  | 0 => x.w0
  | 1 => x.w1
  | 2 => x.w2
  | 3 => x.w3

/-- A 128-bit register with word i replaced. -/
def setBlockWord (x : Block128) (i : Fin 4) (v : Word) : Block128 :=
  match i with
  | 0 => { x with w0 := v }
  | 1 => { x with w1 := v }
  | 2 => { x with w2 := v }
  | 3 => { x with w3 := v }

/-- Element i of a register file (R9). -/
def wordAt {n : Nat} (v : Vector Word n) (i : Nat) : Word := v[i]?.getD 0

/-- For a sequence held newest first, the element `k` places before the one being formed (k = 1 is the newest). -/
def back (r : List Word) (k : Nat) : Word := r.getD (k - 1) 0

/-- `n` more elements of a sequence held newest first: element `j`, then `j + 1`, and so on, each formed by `next` from its
index and the elements before it. -/
def extend (next : Nat → List Word → Word) : Nat → Nat → List Word → List Word
  | 0, _, r => r
  | n + 1, j, r => extend next n (j + 1) (next j r :: r)

theorem extend_length (next : Nat → List Word → Word) (n j : Nat) (r : List Word) :
    (extend next n j r).length = n + r.length := by
  induction n generalizing j r with
  | zero => simp [extend]
  | succ n ih => simp [extend, ih]; omega

/-- A list of `n` words as a register file. -/
def toFile {n : Nat} (l : List Word) (h : l.length = n) : Vector Word n := ⟨l.toArray, by simpa using h⟩

end Sys2Proof.Machine
end

