-- ==== Sys2Proof/Machine/Sm3Functions.lean ====
section
/-! DEFINITION. The pure SM3 functions (43_sm3_functions.md R230 to R256). -/

namespace Sys2Proof.Machine

/-- `P0(x)`, used in compression (R230). -/
def sm3P0 (x : Word) : Word := x ^^^ rol x 9 ^^^ rol x 17

/-- `P1(x)`, used in expansion (R231). -/
def sm3P1 (x : Word) : Word := x ^^^ rol x 15 ^^^ rol x 23

/-- IV[0..7] (R232). -/
def sm3IV : Vector Word 8 :=
  #v[0x7380166F, 0x4914B2B9, 0x172442D7, 0xDA8A0600, 0xA96F30BC, 0x163138AA, 0xE38DEE4D, 0xB0FB0E4E]

/-- `NB(n)`, the number of 512-bit blocks of the padded message of n bytes (R234). -/
def blockCount (n : Nat) : Nat := (n + 72) / 64

/-- `PadByte(m, n, p)`, byte p of the padded message (R233). The bytes of `m` at p >= n are not used. -/
def padByte (m : Nat → Byte) (n p : Nat) : Byte :=
  let lengthField := 64 * blockCount n - 8
  if p < n then m p
  else if p = n then 0x80
  else if p < lengthField then 0x00
  else BitVec.ofNat 8 ((8 * n) >>> (8 * (7 - (p - lengthField))))

/-- `PadBlock(m, n, b)`, block b of the MessageWords, big-endian (R235). -/
def padBlock (m : Nat → Byte) (n b : Nat) : Vector Word 16 :=
  Vector.ofFn fun i : Fin 16 =>
    let p := 64 * b + 4 * i.val
    packBytes (padByte m n p) (padByte m n (p + 1)) (padByte m n (p + 2)) (padByte m n (p + 3))

/-- W[j] from the words before it: P1(W[j-16] ^ W[j-9] ^ rol(W[j-3], 15)) ^ rol(W[j-13], 7) ^ W[j-6] (R239). -/
def expandStep (_j : Nat) (r : List Word) : Word :=
  sm3P1 (back r 16 ^^^ back r 9 ^^^ rol (back r 3) 15) ^^^ rol (back r 13) 7 ^^^ back r 6

/-- W[0..67] of a block: the block itself (R238), then W[16] to W[67] in increasing order (R239). -/
def expandW (b : Vector Word 16) : Vector Word 68 :=
  toFile (extend expandStep 52 16 b.toList.reverse).reverse (by simp [extend_length])

/-- WP[j] = W[j] ^ W[j+4] for j = 0..63 (R240). -/
def expandWP (w : Vector Word 68) : Vector Word 64 :=
  toFile (List.zipWith (· ^^^ ·) (w.toList.take 64) (w.toList.drop 4)) (by simp)

/-- The round constant Tj (R244). -/
def sm3T (j : Nat) : Word := if j < 16 then 0x79cc4519 else 0x7a879d8a

/-- FF_j (R245). -/
def sm3FF (j : Nat) (x y z : Word) : Word :=
  if j < 16 then x ^^^ y ^^^ z else (x &&& y) ||| (x &&& z) ||| (y &&& z)

/-- GG_j (R245). -/
def sm3GG (j : Nat) (x y z : Word) : Word :=
  if j < 16 then x ^^^ y ^^^ z else (x &&& y) ||| (~~~x &&& z)

/-- The compression working registers A to H, internal to a command (10_state.md R48). -/
structure WorkRegs where
  a : Word
  b : Word
  c : Word
  d : Word
  e : Word
  f : Word
  g : Word
  h : Word
  deriving DecidableEq, Repr

/-- Round j of the compression, reading W[j] and WP[j] (R246, R247, R249). Additions are modulo 2^32 (R248). -/
def sm3Round (s : WorkRegs) (j : Nat) (wj wpj : Word) : WorkRegs :=
  let ss1 := rol (rol s.a 12 + s.e + rol (sm3T j) j) 7
  let ss2 := ss1 ^^^ rol s.a 12
  let tt1 := sm3FF j s.a s.b s.c + s.d + ss2 + wpj
  let tt2 := sm3GG j s.e s.f s.g + s.h + ss1 + wj
  { a := tt1, b := s.a, c := rol s.b 9, d := s.c, e := sm3P0 tt2, f := s.e, g := rol s.f 19, h := s.g }

/-- Rounds j, j+1, ... for the listed pairs (W[j], WP[j]), strictly in order (R250). -/
def sm3Rounds : Nat → List (Word × Word) → WorkRegs → WorkRegs
  | _, [], s => s
  | j, (wj, wpj) :: rest, s => sm3Rounds (j + 1) rest (sm3Round s j wj wpj)

/-- `CF(V, W, WP)` (R250): the 64 rounds from A..H = V[0..7], then the feed-forward XOR, once (R251). -/
def compress (v : Vector Word 8) (w : Vector Word 68) (wp : Vector Word 64) : Vector Word 8 :=
  let s := sm3Rounds 0 ((w.toList.take 64).zip wp.toList) ⟨v[0], v[1], v[2], v[3], v[4], v[5], v[6], v[7]⟩
  #v[v[0] ^^^ s.a, v[1] ^^^ s.b, v[2] ^^^ s.c, v[3] ^^^ s.d, v[4] ^^^ s.e, v[5] ^^^ s.f, v[6] ^^^ s.g, v[7] ^^^ s.h]

/-- `Digest(m)` for a message m of n bytes (R252): the blocks chained strictly in order (R253). -/
def digest (m : Nat → Byte) (n : Nat) : Vector Word 8 :=
  (List.range (blockCount n)).foldl
    (fun v b => compress v (expandW (padBlock m n b)) (expandWP (expandW (padBlock m n b)))) sm3IV

/-- The registers SM3_DIGEST carries through its loop (44_sm3_commands.md R286): v, bk, w and wp. -/
structure DigestRegs where
  v : Vector Word 8
  b : Vector Word 16
  w : Vector Word 68
  wp : Vector Word 64
  deriving DecidableEq, Repr

/-- One pass of SM3_DIGEST's loop over block b (R286). -/
def digestStep (m : Nat → Byte) (n : Nat) (r : DigestRegs) (b : Nat) : DigestRegs :=
  let bk := padBlock m n b
  let w := expandW bk
  let wp := expandWP w
  { v := compress r.v w wp, b := bk, w := w, wp := wp }

end Sys2Proof.Machine
end

