-- ==== Sys2Proof/Config.lean ====
section
/-! DEFINITION. The parameter the spec leaves open and the model takes as an argument (00_scope.md R8; log 1). -/

namespace Sys2Proof

/-- MSG_BYTES "a multiple of 64 with 64 <= MSG_BYTES <= 65536" (00_scope.md R8): held as the number of 64-byte units
less one, so that every value of this type is a legal MSG_BYTES and every legal MSG_BYTES is a value of it. -/
structure Config where
  msgUnits : Fin 1024
  deriving DecidableEq, Repr

/-- MSG_BYTES, the size of the message buffer in bytes. -/
def Config.msgBytes (c : Config) : Nat := 64 * (c.msgUnits.val + 1)

/-- MSG_BYTES = 4096. DESIGN CHOICE (log 1): the size 95_test_vectors.md section 5 runs its programs with. -/
def Config.standard : Config := { msgUnits := 63 }

end Sys2Proof
end

