-- ==== Sys2Proof/Machine/State.lean ====
section
/-! DEFINITION. The state of the core (10_state.md, 20_memory.md section 2), its faults, and reset (70_reset_and_hazards.md). -/

namespace Sys2Proof.Machine

/-- The MSG buffer (20_memory.md R76) with its written marks (R79): the bytes written since reset, by strictly rising
address. An address is listed exactly when its byte is marked written; an unlisted byte has no value (log 5). -/
abbrev Memory := List Host.Cell

/-- The STATUS register (10_state.md R33). Its reserved bits hold nothing and read as 0. -/
structure Status where
  /-- bit 0: a command is in flight (R34). -/
  busy : Bool
  /-- bit 1: the last issued command has completed (R35). -/
  done : Bool
  /-- bit 2: the last completed command ended with an error (R36). -/
  err : Bool
  /-- bit 3: RK holds the round keys of the current KEY (R37). -/
  rkv : Bool
  /-- bits 15:8: the error code of the last completed command (R36). -/
  errcode : BitVec 8
  deriving DecidableEq, Repr

/-- A host transaction (20_memory.md R70): its kind, 17-bit byte offset, access size in bytes, and the written value. -/
inductive Transaction where
  | read (off : BitVec 17) (size : Nat)
  | write (off : BitVec 17) (size : Nat) (wdata : Word)
  deriving DecidableEq, Repr

/-- One move of one agent: the host's (40_command_cycle.md R130), the engine's (R133), or the reset input's
(70_reset_and_hazards.md R340). -/
inductive Event where
  | host (t : Transaction)
  | engine
  | reset
  deriving DecidableEq, Repr

/-- The state of the core. -/
structure State where
  /-- The parameter MSG_BYTES (00_scope.md R8). No step changes it (log 1). -/
  config : Config
  /-- The model's own: the moves still to come, oldest first (log 2). -/
  events : List Event
  /-- The model's own: the word the last host read returned (20_memory.md R70; log 7). -/
  rdata : Option Word
  /-- The last command word the host wrote (10_state.md R32). -/
  cmd : Word
  /-- The in-flight command (R52). -/
  pending : Option Word
  /-- STATUS (R33). -/
  status : Status
  /-- KEY[0..3] (R39). -/
  key : Block128
  /-- DIN[0..3] (R40). -/
  din : Block128
  /-- DOUT[0..3] (R41). -/
  dout : Block128
  /-- X[0..3], the rolling register (R42). -/
  x : Block128
  /-- SIN, the scalar operand (R44). -/
  sin : Word
  /-- SOUT, the scalar result (R44). -/
  sout : Word
  /-- MSGLEN, the message length in bytes (R49). NBLK is a function of it (R50). -/
  msglen : Word
  /-- RK[0..31], the round keys (R43). -/
  rk : Vector Word 32
  /-- V[0..7], the chaining value (R45). -/
  v : Vector Word 8
  /-- B[0..15], the message block (R46). -/
  b : Vector Word 16
  /-- W[0..67], the expansion buffer (R47). -/
  w : Vector Word 68
  /-- WP[0..63], the derived expansion buffer (R47). -/
  wp : Vector Word 64
  /-- The MSG buffer and its written marks (R51, R56). -/
  msg : Memory
  deriving DecidableEq, Repr

/-- The model faults of 60_exceptions.md R316. A faulting step writes no state; the run ends there (log 4). -/
inductive Fault where
  /-- HOST_ACCESS. Raised by a host transaction whose size is not 4 or whose offset is not a multiple of 4
  (20_memory.md R72). Safe: the hardware answers with a bus error and goes on; the model stops. -/
  | hostAccess
  /-- HAZARD_BUSY. Raised by a host transaction other than a read of STATUS while a command is in flight
  (70_reset_and_hazards.md R345). Safe: the hardware's response is unspecified; the model stops. -/
  | hazardBusy
  /-- UNWRITTEN_MSG. Raised by SM3_PADBLK, SM3_DIGEST and host reads of the MSG window, on a byte not written since reset
  (20_memory.md R77). Safe: the hardware returns an unspecified byte; the model stops. -/
  | unwrittenMsg
  deriving DecidableEq, Repr

/-- Refusals. None is used: every command has its meaning. -/
inductive Refusal where
  /-- Raised by an arm of `exec` whose command has no meaning yet (there is none). Safe. -/
  | notModelled (mnemonic : String)
  deriving DecidableEq, Repr

/-- STATUS after reset: 0x00000000 (70_reset_and_hazards.md R341). -/
def Status.reset : Status := { busy := false, done := false, err := false, rkv := false, errcode := 0 }

/-- A 128-bit register of zeros. -/
def zeroBlock : Block128 := { w0 := 0, w1 := 0, w2 := 0, w3 := 0 }

/-- The state right after reset of a core with the given parameters (R341): every register 0, no command in flight, every
written mark clear. No move is to come and no read has been answered (log 2, log 7). -/
def State.resetOf (config : Config) : State where
  config := config
  events := []
  rdata := none
  cmd := 0
  pending := none
  status := .reset
  key := zeroBlock
  din := zeroBlock
  dout := zeroBlock
  x := zeroBlock
  sin := 0
  sout := 0
  msglen := 0
  rk := Vector.replicate 32 0
  v := Vector.replicate 8 0
  b := Vector.replicate 16 0
  w := Vector.replicate 68 0
  wp := Vector.replicate 64 0
  msg := []

/-- The machine right after reset, with MSG_BYTES = 4096 (log 1). -/
def State.reset : State := .resetOf .standard

end Sys2Proof.Machine
end

