-- ==== Sys2Proof/Machine/Flags.lean ====
section
/-! DEFINITION. The STATUS word, the error codes and the validation of a command (10_state.md R33 to R37;
60_exceptions.md R310 to R312). -/

namespace Sys2Proof.Machine

/-- What a read of STATUS returns (10_state.md R33): BUSY bit 0, DONE bit 1, ERR bit 2, RKV bit 3, ERRCODE bits 15:8; the
reserved bits read as 0. -/
def statusWord (st : Status) : Word :=
  (0 : BitVec 16) ++ st.errcode ++ (0 : BitVec 4) ++ BitVec.ofBool st.rkv ++ BitVec.ofBool st.err ++
    BitVec.ofBool st.done ++ BitVec.ofBool st.busy

/-- The command errors (60_exceptions.md R311). -/
inductive ErrCode where
  | illegal
  | noKey
  | range
  | len
  deriving DecidableEq, Repr

/-- The code of an error (R311). -/
def ErrCode.code : ErrCode → BitVec 8
  | .illegal => 0x01
  | .noKey => 0x02
  | .range => 0x03
  | .len => 0x04

/-- The STATUS fields a CMD write sets (40_command_cycle.md R132); RKV is unchanged. -/
def Status.issued (st : Status) : Status := { st with busy := true, done := false, err := false, errcode := 0 }

/-- The STATUS fields completion sets (R134). -/
def Status.completed (st : Status) : Status := { st with busy := false, done := true }

/-- The STATUS fields an error sets (R133). -/
def Status.failed (e : ErrCode) (st : Status) : Status := { st with err := true, errcode := e.code }

/-- The commands that need round keys (60_exceptions.md R312). -/
def needsKey : Instr → Bool
  | .sm4Round _ | .sm4Enc | .sm4Dec => true
  | .nop | .sm4Sbox | .sm4Tau | .sm4L | .sm4Lk | .sm4T | .sm4Tk | .sm4Keyexp | .sm4Final
  | .sm3Init | .sm3P0 | .sm3P1 | .sm3Padblk _ | .sm3Expand | .sm3Compress | .sm3Digest => false

/-- The commands that read the message (R312). -/
def readsMessage : Instr → Bool
  | .sm3Padblk _ | .sm3Digest => true
  | .nop | .sm4Sbox | .sm4Tau | .sm4L | .sm4Lk | .sm4T | .sm4Tk | .sm4Round _ | .sm4Keyexp | .sm4Enc | .sm4Dec
  | .sm4Final | .sm3Init | .sm3P0 | .sm3P1 | .sm3Expand | .sm3Compress => false

/-- An index operand out of the command's range: idx >= 32 for SM4_ROUND, idx >= NBLK for SM3_PADBLK (R311). -/
def idxOutOfRange (i : Instr) (s : State) : Bool :=
  match i with
  | .sm4Round idx => decide (32 ≤ idx)
  | .sm3Padblk idx => decide (blockCount s.msglen.toNat ≤ idx)
  | .nop | .sm4Sbox | .sm4Tau | .sm4L | .sm4Lk | .sm4T | .sm4Tk | .sm4Keyexp | .sm4Enc | .sm4Dec | .sm4Final
  | .sm3Init | .sm3P0 | .sm3P1 | .sm3Expand | .sm3Compress | .sm3Digest => false

/-- `check(d)` (R312): the first error condition that holds; none where the command passes. It writes nothing. -/
def check (d : Decoded) (s : State) : Option ErrCode :=
  match d with
  | .illegal _ => some .illegal
  | .command i =>
    if needsKey i && !s.status.rkv then some .noKey
    else if readsMessage i && decide (s.config.msgBytes < s.msglen.toNat) then some .len
    else if idxOutOfRange i s then some .range
    else none

end Sys2Proof.Machine
end

