-- ==== Sys2Proof/Machine/Operands.lean ====
section
/-! DEFINITION. The registers as operands: their names and offsets, the map of the register space, and what a host read of
each returns (10_state.md R30; 20_memory.md R71). -/

namespace Sys2Proof.Machine

/-- The host-visible registers (10_state.md R30), an element of a file by its index. -/
inductive Reg where
  | cmd
  | status
  | key (i : Fin 4)
  | din (i : Fin 4)
  | dout (i : Fin 4)
  | x (i : Fin 4)
  | sin
  | sout
  | msglen
  | nblk
  | rk (i : Fin 32)
  | v (i : Fin 8)
  | b (i : Fin 16)
  | w (i : Fin 68)
  | wp (i : Fin 64)
  deriving DecidableEq, Repr

/-- The byte offset of a register: element i of a file with base offset `base` is at base + 4*i (R30). -/
def Reg.offset : Reg → Nat
  | .cmd => 0x000
  | .status => 0x004
  | .key i => 0x010 + 4 * i.val
  | .din i => 0x020 + 4 * i.val
  | .dout i => 0x030 + 4 * i.val
  | .x i => 0x040 + 4 * i.val
  | .sin => 0x050
  | .sout => 0x054
  | .msglen => 0x060
  | .nblk => 0x064
  | .rk i => 0x080 + 4 * i.val
  | .v i => 0x100 + 4 * i.val
  | .b i => 0x140 + 4 * i.val
  | .w i => 0x200 + 4 * i.val
  | .wp i => 0x400 + 4 * i.val

/-- The element of an n-element file at `base` that a word-aligned offset names. -/
def elementAt (base n off : Nat) : Option (Fin n) :=
  if h : base ≤ off ∧ (off - base) / 4 < n then some ⟨(off - base) / 4, h.2⟩ else none

/-- The register at a word-aligned offset of 0x00000 to 0x004FF (20_memory.md R71); none where the offset is reserved. -/
def regAt (off : Nat) : Option Reg :=
  if off = 0x000 then some .cmd
  else if off = 0x004 then some .status
  else if off = 0x050 then some .sin
  else if off = 0x054 then some .sout
  else if off = 0x060 then some .msglen
  else if off = 0x064 then some .nblk
  else
    (elementAt 0x010 4 off).map .key
    |>.or ((elementAt 0x020 4 off).map .din)
    |>.or ((elementAt 0x030 4 off).map .dout)
    |>.or ((elementAt 0x040 4 off).map .x)
    |>.or ((elementAt 0x080 32 off).map .rk)
    |>.or ((elementAt 0x100 8 off).map .v)
    |>.or ((elementAt 0x140 16 off).map .b)
    |>.or ((elementAt 0x200 68 off).map .w)
    |>.or ((elementAt 0x400 64 off).map .wp)

/-- What stands at a word-aligned offset of the register space (R71). -/
inductive Place where
  | reg (r : Reg)
  | msg (a : Nat)
  | reserved
  deriving DecidableEq, Repr

/-- The base offset of the MSG window (R76). -/
def msgBase : Nat := 0x10000

/-- The map of R71. -/
def locate (c : Config) (off : BitVec 17) : Place :=
  match regAt off.toNat with
  | some r => .reg r
  | none =>
    if msgBase ≤ off.toNat ∧ off.toNat < msgBase + c.msgBytes then .msg (off.toNat - msgBase) else .reserved

/-- NBLK, the function of MSGLEN of 10_state.md R50. -/
def nblk (s : State) : Word := BitVec.ofNat 32 (blockCount s.msglen.toNat)

/-- The value of a register, as a host read returns it. -/
def readReg (s : State) : Reg → Word
  | .cmd => s.cmd
  | .status => statusWord s.status
  | .key i => blockWord s.key i
  | .din i => blockWord s.din i
  | .dout i => blockWord s.dout i
  | .x i => blockWord s.x i
  | .sin => s.sin
  | .sout => s.sout
  | .msglen => s.msglen
  | .nblk => nblk s
  | .rk i => s.rk[i]
  | .v i => s.v[i]
  | .b i => s.b[i]
  | .w i => s.w[i]
  | .wp i => s.wp[i]

/-- The byte operand SIN[7:0] of SM4_SBOX (42_sm4_commands.md R200). -/
def sinByte (s : State) : Byte := s.sin.setWidth 8

/-- The round key RK[idx] of SM4_ROUND, read after the range check (R206). -/
def roundKey (s : State) (idx : Nat) : Word := wordAt s.rk idx

end Sys2Proof.Machine
end

