-- ==== Sys2Proof/Machine/Ops.lean ====
section
/-! DEFINITION. The shared operations: the MSG buffer (20_memory.md section 2), issuing and completing a command
(40_command_cycle.md R132 to R134), its errors (60_exceptions.md R310), register writes, and reset
(70_reset_and_hazards.md R341). -/

namespace Sys2Proof.Machine

/-- The outcome of a step of this machine. -/
abbrev Result := Host.Outcome State Fault Refusal

/-- The canonical form of the MSG buffer: strictly rising addresses. (An unlisted byte has no value, so no entry can
repeat one.) -/
abbrev Memory.wf (m : Memory) : Prop := m.Pairwise fun c d => c.1 < d.1

/-- Every listed byte is one of MSG[0..size-1] (20_memory.md R76). -/
abbrev Memory.within (size : Nat) (m : Memory) : Prop := ∀ c ∈ m, c.1 < size

/-- `MsgByte(p)` (R77): the byte if it is marked written, none if it is not. -/
def Memory.read : Memory → Nat → Option Byte
  | [], _ => none
  | (k, u) :: m, a => if k = a then some u else Memory.read m a

/-- Store one byte and set its written mark, keeping the canonical form. -/
def Memory.write : Memory → Nat → Byte → Memory
  | [], a, v => [(a, v)]
  | (k, u) :: m, a, v =>
    if a < k then (a, v) :: (k, u) :: m
    else if a = k then (a, v) :: m
    else (k, u) :: Memory.write m a v

/-- The store of a word at MSG address a, big-endian, with the four marks (R76, R79). -/
def Memory.writeWord (m : Memory) (a : Nat) (v : Word) : Memory :=
  ((((m.write a (byteOf v 0)).write (a + 1) (byteOf v 1)).write (a + 2) (byteOf v 2)).write (a + 3) (byteOf v 3))

/-- The word at MSG address a, none if any of its bytes is unwritten (R78). -/
def Memory.readWord (m : Memory) (a : Nat) : Option Word :=
  match m.read a, m.read (a + 1), m.read (a + 2), m.read (a + 3) with
  | some b0, some b1, some b2, some b3 => some (packBytes b0 b1 b2 b3)
  | _, _, _, _ => none

/-- Every byte at a position lo <= p < hi is marked written. -/
def Memory.written (m : Memory) (lo hi : Nat) : Bool :=
  (List.range (hi - lo)).all fun k => (m.read (lo + k)).isSome

/-- The message bytes as a function of position. The commands use it only at positions they have found written. -/
def msgBytesOf (s : State) : Nat → Byte := fun p => (s.msg.read p).getD 0

/-- Issue of a command word (40_command_cycle.md R132). -/
def issue (c : Word) (s : State) : State := { s with cmd := c, pending := some c, status := s.status.issued }

/-- Completion of the in-flight command (R134). -/
def complete (s : State) : State := { s with pending := none, status := s.status.completed }

/-- Completion with an error: ERR, ERRCODE and completion, and nothing else (R133, R136; 60_exceptions.md R310). -/
def completeError (e : ErrCode) (s : State) : State := complete { s with status := s.status.failed e }

/-- `engine_step` of R133 for a decoded word: check, then perform, then complete. A fault of `perform` is the step's. -/
def runDecoded (d : Decoded) (perform : State → Result) (s : State) : Result :=
  match check d s with
  | some e => .next (completeError e s)
  | none =>
    match perform s with
    | .next t => .next (complete t)
    | .fault r => .fault r
    | .refused r => .refused r

/-- The cycle of a command whose `perform` only writes registers. -/
def runCommand (i : Instr) (perform : State → State) (s : State) : Result :=
  runDecoded (.command i) (fun s => .next (perform s)) s

/-- A host write to a register (20_memory.md R73, R75): CMD issues a command, KEY also clears RKV (10_state.md R37), the
other RW registers store the value, and a write to a read-only register is ignored. -/
def writeReg (s : State) (r : Reg) (val : Word) : State :=
  match r with
  | .cmd => issue val s
  | .key i => { s with key := setBlockWord s.key i val, status := { s.status with rkv := false } }
  | .din i => { s with din := setBlockWord s.din i val }
  | .x i => { s with x := setBlockWord s.x i val }
  | .sin => { s with sin := val }
  | .msglen => { s with msglen := val }
  | .v i => { s with v := s.v.set i val }
  | .b i => { s with b := s.b.set i val }
  | .status | .dout _ | .sout | .nblk | .rk _ | .w _ | .wp _ => s

/-- Reset (70_reset_and_hazards.md R341). The moves still to come stay; they are the surroundings' (log 2). -/
def takeReset (s : State) : State := { State.resetOf s.config with events := s.events }

end Sys2Proof.Machine
end

