-- ==== Sys2Proof/Machine/Control.lean ====
section
/-! DEFINITION. The meaning of NOP (40_command_cycle.md R140). -/

namespace Sys2Proof.Machine

/-- NOP: nothing is performed (R140). -/
def execNop (s : State) : Result := runCommand .nop id s

end Sys2Proof.Machine
end

