-- ==== Sys2Proof/Machine/Sm3Commands.lean ====
section
/-! DEFINITION. The meanings of the SM3 commands (44_sm3_commands.md R280 to R286). -/

namespace Sys2Proof.Machine

/-- SM3_INIT: V <- IV (R280). -/
def execSm3Init (s : State) : Result := runCommand .sm3Init (fun s => { s with v := sm3IV }) s

/-- SM3_P0: SOUT <- P0(SIN) (R281). -/
def execSm3P0 (s : State) : Result := runCommand .sm3P0 (fun s => { s with sout := sm3P0 s.sin }) s

/-- SM3_P1: SOUT <- P1(SIN) (R282). -/
def execSm3P1 (s : State) : Result := runCommand .sm3P1 (fun s => { s with sout := sm3P1 s.sin }) s

/-- SM3_PADBLK idx: B <- PadBlock(msg, MSGLEN, idx) (R283). It reads the message bytes 64*idx <= p < min(64*idx + 64, n), and
faults if one of them is unwritten. -/
def execSm3Padblk (idx : Nat) (s : State) : Result :=
  runDecoded (.command (.sm3Padblk idx)) (fun s =>
    let n := s.msglen.toNat
    if s.msg.written (64 * idx) (min (64 * idx + 64) n) then .next { s with b := padBlock (msgBytesOf s) n idx }
    else .fault .unwrittenMsg) s

/-- SM3_EXPAND: (W, WP) <- Expand(B) (R284). -/
def execSm3Expand (s : State) : Result :=
  runCommand .sm3Expand (fun s =>
    let w := expandW s.b
    { s with w := w, wp := expandWP w }) s

/-- SM3_COMPRESS: V <- CF(V, W, WP) (R285). -/
def execSm3Compress (s : State) : Result :=
  runCommand .sm3Compress (fun s => { s with v := compress s.v s.w s.wp }) s

/-- SM3_DIGEST: the loop of R286 over every block of the message; V, B, W and WP take its last values. It reads the message
bytes 0 <= p < n, and faults if one of them is unwritten. -/
def execSm3Digest (s : State) : Result :=
  runDecoded (.command .sm3Digest) (fun s =>
    let n := s.msglen.toNat
    if s.msg.written 0 n then
      let r := (List.range (blockCount n)).foldl (digestStep (msgBytesOf s) n) ⟨sm3IV, s.b, s.w, s.wp⟩
      .next { s with v := r.v, b := r.b, w := r.w, wp := r.wp }
    else .fault .unwrittenMsg) s

end Sys2Proof.Machine
end

