-- ==== Sys2Proof/Machine/Sm4Functions.lean ====
section
/-! DEFINITION. The pure SM4 functions (41_sm4_functions.md R160 to R178). -/

namespace Sys2Proof.Machine

/-- Rows 0. to 7. of the S-box table of R160, each the row's 16 bytes in the order the spec prints them. -/
def sboxRowsLow : List (BitVec 128) :=
  [ 0xd690e9fecce13db716b614c228fb2c05,
    0x2b679a762abe04c3aa44132649860699,
    0x9c4250f491ef987a33540b43edcfac62,
    0xe4b31ca9c908e89580df94fa758f3fa6,
    0x4707a7fcf37317ba83593c19e6854fa8,
    0x686b81b27164da8bf8eb0f4b70569d35,
    0x1e240e5e6358d1a225227c3b01217887,
    0xd40046579fd327524c3602e7a0c4c89e ]

/-- Rows 8. to f. of the S-box table of R160. -/
def sboxRowsHigh : List (BitVec 128) :=
  [ 0xeabf8ad240c738b5a3f7f2cef96115a1,
    0xe0ae5da49b341a55ad933230f58cb1e3,
    0x1df6e22e8266ca60c02923ab0d534e6f,
    0xd5db3745defd8e2f03ff6a726d6c5b51,
    0x8d1baf92bbddbc7f11d95c411f105ad8,
    0x0ac13188a5cd7bbd2d74d012b8e5b4b0,
    0x8969974a0c96777e65b9f109c56ec684,
    0x18f07dec3adc4d2079ee5f3ed7cb3948 ]

/-- `SBOX(b)`: the entry at row b[7:4] and column b[3:0] (R160). -/
def sbox (b : Byte) : Byte :=
  let row := (sboxRowsLow ++ sboxRowsHigh).getD (b.toNat / 16) 0
  (row >>> (8 * (15 - b.toNat % 16))).setWidth 8

/-- `tau(x)`: the S-box on each byte of the word (R162). -/
def tau (x : Word) : Word :=
  packBytes (sbox (byteOf x 0)) (sbox (byteOf x 1)) (sbox (byteOf x 2)) (sbox (byteOf x 3))

/-- `L(t)`, the round's linear diffusion (R163). -/
def sm4L (t : Word) : Word := t ^^^ rol t 2 ^^^ rol t 10 ^^^ rol t 18 ^^^ rol t 24

/-- `Lk(x)`, L' of the key schedule (R164). -/
def sm4Lk (x : Word) : Word := x ^^^ rol x 13 ^^^ rol x 23

/-- `T(x) = L(tau(x))` (R165). -/
def sm4T (x : Word) : Word := sm4L (tau x)

/-- `Tk(x) = Lk(tau(x))`, T' of the key schedule (R166). -/
def sm4Tk (x : Word) : Word := sm4Lk (tau x)

/-- FK[0..3] (R167). -/
def sm4FK : Block128 := { w0 := 0xA3B1BAC6, w1 := 0x56AA3350, w2 := 0x677D9197, w3 := 0xB27022DC }

/-- CK[0..31], the table of R168. -/
def ckTable : List Word :=
  [0x00070e15, 0x1c232a31, 0x383f464d, 0x545b6269, 0x70777e85, 0x8c939aa1, 0xa8afb6bd, 0xc4cbd2d9] ++
  [0xe0e7eef5, 0xfc030a11, 0x181f262d, 0x343b4249, 0x50575e65, 0x6c737a81, 0x888f969d, 0xa4abb2b9] ++
  [0xc0c7ced5, 0xdce3eaf1, 0xf8ff060d, 0x141b2229, 0x30373e45, 0x4c535a61, 0x686f767d, 0x848b9299] ++
  [0xa0a7aeb5, 0xbcc3cad1, 0xd8dfe6ed, 0xf4fb0209, 0x10171e25, 0x2c333a41, 0x484f565d, 0x646b7279]

/-- CK[i] (R168). -/
def sm4CK (i : Nat) : Word := ckTable.getD i 0

/-- The masked key K[0..3] = k_i ^ FK[i] (R169), newest first. -/
def maskedKey (k : Block128) : List Word :=
  [k.w3 ^^^ sm4FK.w3, k.w2 ^^^ sm4FK.w2, k.w1 ^^^ sm4FK.w1, k.w0 ^^^ sm4FK.w0]

/-- Step i of the key schedule, K[i+4] = K[i] ^ Tk(K[i+1] ^ K[i+2] ^ K[i+3] ^ CK[i]) (R170). -/
def keyStep (i : Nat) (r : List Word) : Word :=
  back r 4 ^^^ sm4Tk (back r 3 ^^^ back r 2 ^^^ back r 1 ^^^ sm4CK i)

/-- K[0..35] of R169 and R170. -/
def keySequence (k : Block128) : List Word := (extend keyStep 32 0 (maskedKey k)).reverse

/-- `KeyExpand(k)`: the round keys rk[i] = K[i+4] in encryption order (R171). -/
def keyExpand (k : Block128) : Vector Word 32 :=
  toFile ((keySequence k).drop 4) (by simp [keySequence, extend_length, maskedKey])

/-- `F`, one round's new word (R173). -/
def sm4F (x0 x1 x2 x3 rkw : Word) : Word := x0 ^^^ sm4T (x1 ^^^ x2 ^^^ x3 ^^^ rkw)

/-- `Round(X, rkw)`: the rolling register drops x0 and appends the new word (R174). -/
def sm4Round (x : Block128) (rkw : Word) : Block128 :=
  { w0 := x.w1, w1 := x.w2, w2 := x.w3, w3 := sm4F x.w0 x.w1 x.w2 x.w3 rkw }

/-- `Crypt(X, keys)`: 32 rounds in order (R175). -/
def crypt (x : Block128) (keys : Vector Word 32) : Block128 := keys.toList.foldl sm4Round x

/-- The decryption key sequence rkd[i] = rk[31 - i] (R172). -/
def reverseKeys (rk : Vector Word 32) : Vector Word 32 := toFile rk.toList.reverse (by simp)

/-- `Rev(X)`, the final word-order permutation (R176). -/
def revWords (x : Block128) : Block128 := { w0 := x.w3, w1 := x.w2, w2 := x.w1, w3 := x.w0 }

/-- `Encrypt(P, k)` (R177). -/
def encryptBlock (p k : Block128) : Block128 := revWords (crypt p (keyExpand k))

/-- `Decrypt(C, k)` (R178). -/
def decryptBlock (c k : Block128) : Block128 := revWords (crypt c (reverseKeys (keyExpand k)))

end Sys2Proof.Machine
end

