-- ==== Sys2Proof/Machine/Sm4Commands.lean ====
section
/-! DEFINITION. The meanings of the SM4 commands (42_sm4_commands.md R200 to R210). -/

namespace Sys2Proof.Machine

/-- SM4_SBOX: SOUT <- zext_32(SBOX(SIN[7:0])) (R200). -/
def execSm4Sbox (s : State) : Result :=
  runCommand .sm4Sbox (fun s => { s with sout := (sbox (sinByte s)).setWidth 32 }) s

/-- SM4_TAU: SOUT <- tau(SIN) (R201). -/
def execSm4Tau (s : State) : Result := runCommand .sm4Tau (fun s => { s with sout := tau s.sin }) s

/-- SM4_L: SOUT <- L(SIN) (R202). -/
def execSm4L (s : State) : Result := runCommand .sm4L (fun s => { s with sout := sm4L s.sin }) s

/-- SM4_LK: SOUT <- Lk(SIN) (R203). -/
def execSm4Lk (s : State) : Result := runCommand .sm4Lk (fun s => { s with sout := sm4Lk s.sin }) s

/-- SM4_T: SOUT <- T(SIN) (R204). -/
def execSm4T (s : State) : Result := runCommand .sm4T (fun s => { s with sout := sm4T s.sin }) s

/-- SM4_TK: SOUT <- Tk(SIN) (R205). -/
def execSm4Tk (s : State) : Result := runCommand .sm4Tk (fun s => { s with sout := sm4Tk s.sin }) s

/-- SM4_ROUND idx: X <- Round(X, RK[idx]) (R206). -/
def execSm4Round (idx : Nat) (s : State) : Result :=
  runCommand (.sm4Round idx) (fun s => { s with x := sm4Round s.x (roundKey s idx) }) s

/-- SM4_KEYEXP: RK <- KeyExpand(KEY), RKV <- 1 (R207). -/
def execSm4Keyexp (s : State) : Result :=
  runCommand .sm4Keyexp (fun s => { s with rk := keyExpand s.key, status := { s.status with rkv := true } }) s

/-- SM4_ENC: X <- Crypt(DIN, RK), DOUT <- Rev(X) (R208). -/
def execSm4Enc (s : State) : Result :=
  runCommand .sm4Enc (fun s =>
    let r := crypt s.din s.rk
    { s with x := r, dout := revWords r }) s

/-- SM4_DEC: as SM4_ENC with the round keys in reverse order (R209). -/
def execSm4Dec (s : State) : Result :=
  runCommand .sm4Dec (fun s =>
    let r := crypt s.din (reverseKeys s.rk)
    { s with x := r, dout := revWords r }) s

/-- SM4_FINAL: DOUT <- Rev(X) (R210). -/
def execSm4Final (s : State) : Result := runCommand .sm4Final (fun s => { s with dout := revWords s.x }) s

end Sys2Proof.Machine
end

