-- ==== Sys2Proof/Machine/Dispatch.lean ====
section
/-! DEFINITION. One arm per command (30_encoding.md R103). -/

namespace Sys2Proof.Machine

def exec (i : Instr) (s : State) : Host.Outcome State Fault Refusal :=
  match i with
  | .nop => Sys2Proof.Machine.execNop s
  | .sm4Sbox => Sys2Proof.Machine.execSm4Sbox s
  | .sm4Tau => Sys2Proof.Machine.execSm4Tau s
  | .sm4L => Sys2Proof.Machine.execSm4L s
  | .sm4Lk => Sys2Proof.Machine.execSm4Lk s
  | .sm4T => Sys2Proof.Machine.execSm4T s
  | .sm4Tk => Sys2Proof.Machine.execSm4Tk s
  | .sm4Round idx => Sys2Proof.Machine.execSm4Round idx s
  | .sm4Keyexp => Sys2Proof.Machine.execSm4Keyexp s
  | .sm4Enc => Sys2Proof.Machine.execSm4Enc s
  | .sm4Dec => Sys2Proof.Machine.execSm4Dec s
  | .sm4Final => Sys2Proof.Machine.execSm4Final s
  | .sm3Init => Sys2Proof.Machine.execSm3Init s
  | .sm3P0 => Sys2Proof.Machine.execSm3P0 s
  | .sm3P1 => Sys2Proof.Machine.execSm3P1 s
  | .sm3Padblk idx => Sys2Proof.Machine.execSm3Padblk idx s
  | .sm3Expand => Sys2Proof.Machine.execSm3Expand s
  | .sm3Compress => Sys2Proof.Machine.execSm3Compress s
  | .sm3Digest => Sys2Proof.Machine.execSm3Digest s

end Sys2Proof.Machine
end

