-- ==== Sys2Proof/Machine/HostPort.lean ====
section
/-! DEFINITION. The host's transactions (20_memory.md R70 to R79; 70_reset_and_hazards.md R345). -/

namespace Sys2Proof.Machine

/-- "Every host transaction must have size = 4 and off mod 4 = 0" (20_memory.md R72). -/
def acceptedAccess (off : BitVec 17) (size : Nat) : Bool := size == 4 && off.toNat % 4 == 0

/-- A host read with its place found (R73, R74, R78). -/
def hostRead (s : State) : Place → Result
  | .reg r => .next { s with rdata := some (readReg s r) }
  | .reserved => .next { s with rdata := some 0 }
  | .msg a =>
    match s.msg.readWord a with
    | some v => .next { s with rdata := some v }
    | none => .fault .unwrittenMsg

/-- A host write with its place found (R73, R75, R76). -/
def hostWrite (s : State) (v : Word) : Place → Result
  | .reg r => .next (writeReg s r v)
  | .reserved => .next s
  | .msg a => .next { s with msg := s.msg.writeWord a v }

/-- A host transaction. Where one meets several faults, the spec gives no order among them; DESIGN CHOICE (log 6): size and
alignment are judged first (HOST_ACCESS, R72), then the hazard (HAZARD_BUSY, 70_reset_and_hazards.md R345), and last whether
the MSG bytes read are written (UNWRITTEN_MSG, R78). -/
def hostStep (t : Transaction) (s : State) : Result :=
  match t with
  | .read off size =>
    if !acceptedAccess off size then .fault .hostAccess
    else if s.pending.isSome && locate s.config off != .reg .status then .fault .hazardBusy
    else hostRead s (locate s.config off)
  | .write off size v =>
    if !acceptedAccess off size then .fault .hostAccess
    else if s.pending.isSome then .fault .hazardBusy
    else hostWrite s v (locate s.config off)

end Sys2Proof.Machine
end

