-- ==== Sys2Proof/Machine/Engine.lean ====
section
/-! DEFINITION. The engine's step (40_command_cycle.md R133) and the move of each agent (R130). -/

namespace Sys2Proof.Machine

/-- The engine performs the word c: it decodes it and runs the command; an ILLEGAL word completes with E_ILLEGAL
(30_encoding.md R105). -/
def performWord (c : Word) (s : State) : Result :=
  match decode c with
  | .command i => exec i s
  | .illegal why => runDecoded (.illegal why) .next s

/-- `engine_step` (R133). It reads `pending`, never CMD (R131). Where no command is in flight it is not enabled (R130) and
nothing changes (log 2). -/
def engineStep (s : State) : Result :=
  match s.pending with
  | none => .next s
  | some c => performWord c s

/-- The move of one agent. -/
def takeEvent (e : Event) (s : State) : Result :=
  match e with
  | .host t => hostStep t s
  | .engine => engineStep s
  | .reset => .next (takeReset s)

/-- The event list that gives the engine the next move. -/
def engineNext (s : State) : State := { s with events := .engine :: s.events }

end Sys2Proof.Machine
end

