-- ==== Sys2Proof/Machine/Step.lean ====
section
/-! DEFINITION. One step of the machine: the oldest event is taken. Where none is left the engine moves, which is the
fairness of 40_command_cycle.md R135 (log 2). -/

namespace Sys2Proof.Machine

def step (s : State) : Host.Outcome State Fault Refusal :=
  match s.events with
  | [] => engineStep s
  | e :: rest => takeEvent e { s with events := rest }

/-- The state in which the table word is the in-flight command and the engine has the next move: what a host write of that
word to CMD leaves (R132), so that the next step performs it (log 3). -/
def State.withFetchWord (s : State) (nbits w : Nat) : State := engineNext (issue (tableWord nbits w) s)

end Sys2Proof.Machine
end

