-- ==== Sys2Proof/Safety.lean ====
section
/-! DEFINITION. What holds in every state the core can be in, and what a fault-free run is. -/

namespace Sys2Proof.Machine

/-- The relations between the registers that the spec gives for every moment. -/
structure Coherent (s : State) : Prop where
  /-- "BUSY = 1 exactly when the in-flight command is present" (10_state.md R34). -/
  busy_iff_pending : s.status.busy = s.pending.isSome
  /-- "BUSY = 1 and DONE = 1 never hold together" (R35). -/
  not_busy_and_done : ¬ (s.status.busy = true ∧ s.status.done = true)
  /-- "ERR = 1 exactly when ERRCODE != 0" (R36). -/
  err_iff_code : s.status.err = true ↔ s.status.errcode ≠ 0
  /-- An error is only reported by a completed command (R36: the CMD write clears ERR). -/
  err_only_done : s.status.err = true → s.status.done = true
  /-- The reserved error codes 0x05 to 0xFF are never produced (60_exceptions.md R311). -/
  code_not_reserved : s.status.errcode.toNat ≤ 4
  /-- "RKV: 1 when RK[0..31] holds the round keys of the current KEY[0..3]" (10_state.md R33). -/
  rkv_keys : s.status.rkv = true → s.rk = keyExpand s.key
  /-- "CMD and pending hold the same word while a command is in flight" (40_command_cycle.md R131). -/
  pending_is_cmd : ∀ c, s.pending = some c → s.cmd = c
  /-- The MSG buffer keeps its canonical form. -/
  msg_wf : s.msg.wf
  /-- Only bytes of the buffer are written (20_memory.md R76). -/
  msg_within : s.msg.within s.config.msgBytes

/-- `k` steps from `s` end in `t` without a fault: "every claim about a host script takes 'no fault' as a premise"
(60_exceptions.md R316). -/
def RunsTo (k : Nat) (s t : State) : Prop := Host.Core.run Sys2Proof.core k s = .next t

end Sys2Proof.Machine
end

