-- ==== Sys2Proof/Certificates/Slice0/Obligations.lean ====
section
/-! DEFINITION. The statements for the provers. Each is written, where it can be, in the spec's own words and not in the
model's functions: completion is spelled out field by field, rotations are the library's, and registers are named by their
offsets. -/

namespace Sys2Proof.Claims

open Sys2Proof.Machine

/-- The state after a command completes without error (40_command_cycle.md R133): its results are in `s` already. -/
def completed (s : State) : State :=
  { s with pending := none, status := { s.status with busy := false, done := true } }

/-- The state after a command completes with an error code (R133). -/
def completedWith (code : BitVec 8) (s : State) : State :=
  { s with pending := none, status := { s.status with busy := false, done := true, err := true, errcode := code } }

/-- The S-box on each byte of a word (41_sm4_functions.md R162). -/
def tauOf (x : Word) : Word :=
  sbox (x.extractLsb' 24 8) ++ sbox (x.extractLsb' 16 8) ++ sbox (x.extractLsb' 8 8) ++ sbox (x.extractLsb' 0 8)

/-- x ^ rol(x,2) ^ rol(x,10) ^ rol(x,18) ^ rol(x,24) (R163). -/
def diffused (x : Word) : Word :=
  x ^^^ x.rotateLeft 2 ^^^ x.rotateLeft 10 ^^^ x.rotateLeft 18 ^^^ x.rotateLeft 24

/-- x ^ rol(x,13) ^ rol(x,23) (R164). -/
def keyDiffused (x : Word) : Word := x ^^^ x.rotateLeft 13 ^^^ x.rotateLeft 23

/-- x ^ rol(x,9) ^ rol(x,17) (43_sm3_functions.md R230). -/
def p0Of (x : Word) : Word := x ^^^ x.rotateLeft 9 ^^^ x.rotateLeft 17

/-- x ^ rol(x,15) ^ rol(x,23) (R231). -/
def p1Of (x : Word) : Word := x ^^^ x.rotateLeft 15 ^^^ x.rotateLeft 23

/-- One round's new word x0 ^ L(tau(x1 ^ x2 ^ x3 ^ k)) (41_sm4_functions.md R173). -/
def newWord (x0 x1 x2 x3 k : Word) : Word := x0 ^^^ diffused (tauOf (x1 ^^^ x2 ^^^ x3 ^^^ k))

/-- The key, plaintext and register contents 01234567 89abcdef fedcba98 76543210 of DOC0 section 8's SM4 vector. -/
def katBlock : Block128 := { w0 := 0x01234567, w1 := 0x89abcdef, w2 := 0xfedcba98, w3 := 0x76543210 }

/-- PadBlock("abc", 3, 0) (43_sm3_functions.md R235): 61626380, 14 zero words, 00000018. -/
def abcBlock : Vector Word 16 := #v[0x61626380, 0, 0, 0, 0, 0, 0, 0, 0, 0, 0, 0, 0, 0, 0, 0x00000018]

/-- The rounds' constant, FF and GG for j < 16 and for j >= 16, and the update of A to H (R244 to R249). -/
def roundOf (j : Nat) (wj wpj : Word) (s : WorkRegs) : WorkRegs :=
  let tj : Word := if j < 16 then 0x79cc4519 else 0x7a879d8a
  let ss1 := (s.a.rotateLeft 12 + s.e + tj.rotateLeft (j % 32)).rotateLeft 7
  let ss2 := ss1 ^^^ s.a.rotateLeft 12
  let ff := if j < 16 then s.a ^^^ s.b ^^^ s.c else (s.a &&& s.b) ||| (s.a &&& s.c) ||| (s.b &&& s.c)
  let gg := if j < 16 then s.e ^^^ s.f ^^^ s.g else (s.e &&& s.f) ||| (~~~s.e &&& s.g)
  let tt1 := ff + s.d + ss2 + wpj
  let tt2 := gg + s.h + ss1 + wj
  { a := tt1, b := s.a, c := s.b.rotateLeft 9, d := s.c, e := p0Of tt2, f := s.e, g := s.f.rotateLeft 19, h := s.g }

/-- Byte p of the padded message of n bytes (R233), where `m p` is the message byte, if there is one. -/
def paddedByte (m : Nat → Option Byte) (n p : Nat) : Option Byte :=
  let nb := (n + 72) / 64
  if p < n then m p
  else if p = n then some 0x80
  else if p < 64 * nb - 8 then some 0x00
  else some (BitVec.ofNat 8 (8 * n / 2 ^ (8 * (7 - (p - (64 * nb - 8))))))

/-- The bytes of a word, most significant first. -/
def wordBytes (x : Word) : List Byte :=
  [x.extractLsb' 24 8, x.extractLsb' 16 8, x.extractLsb' 8 8, x.extractLsb' 0 8]

/-- A sequence of commands performed one after the other, up to the first fault. -/
def runCommands : List Instr → State → Result
  | [], s => .next s
  | i :: rest, s =>
    match exec i s with
    | .next t => runCommands rest t
    | .fault r => .fault r
    | .refused r => .refused r

/-- The offsets of the read-only registers (10_state.md R30): STATUS, DOUT, SOUT, NBLK, RK, W, WP. -/
def readOnlyOffset (n : Nat) : Prop :=
  n = 0x004 ∨ (0x030 ≤ n ∧ n ≤ 0x03C) ∨ n = 0x054 ∨ n = 0x064 ∨ (0x080 ≤ n ∧ n ≤ 0x0FC) ∨ (0x200 ≤ n ∧ n ≤ 0x30C) ∨
    (0x400 ≤ n ∧ n ≤ 0x4FC)

/-- The reserved word offsets of a core with a message buffer of `msgBytes` bytes (20_memory.md R71): the gaps between the
registers of R30, and everything from 0x500 that is not in the MSG window. -/
def reservedOffset (msgBytes n : Nat) : Prop :=
  (0x008 ≤ n ∧ n ≤ 0x00C) ∨ (0x058 ≤ n ∧ n ≤ 0x05C) ∨ (0x068 ≤ n ∧ n ≤ 0x07C) ∨ (0x120 ≤ n ∧ n ≤ 0x13C) ∨
    (0x180 ≤ n ∧ n ≤ 0x1FC) ∨ (0x310 ≤ n ∧ n ≤ 0x3FC) ∨ (0x500 ≤ n ∧ n < 0x10000) ∨ 0x10000 + msgBytes ≤ n

/-- The event of a whole-word host read. -/
def rd (off : BitVec 17) : Event := .host (.read off 4)

/-- The event of a whole-word host write. -/
def wr (off : BitVec 17) (val : Word) : Event := .host (.write off 4 val)

end Sys2Proof.Claims

open Sys2Proof Sys2Proof.Machine Sys2Proof.Claims

/-! ## Encoding -/

/-- No bit of an encoding is dropped: every well-formed command is what its word decodes to. -/
def Obligations.DecodeOfEncodeIsTheCommand : Prop :=
  ∀ i : Instr, i.wf = true → decode (encode i) = .command i

/-- Each word that decodes has one meaning, is the word of that command, and has a 24-bit index. -/
def Obligations.EncodeOfDecodeIsTheWord : Prop :=
  ∀ (c : Word) (i : Instr), decode c = .command i → i.wf = true ∧ encode i = c

/-- 30_encoding.md R104: the two index operations take their IDX, every other word decodes by its row, a word is ILLEGAL
exactly when it matches no row, and no two rows match one word. -/
def Obligations.DecodeFollowsTheOpcodeTable : Prop :=
  ∀ c : Word,
    (c.extractLsb' 0 8 = 0x07 → decode c = .command (.sm4Round (c.toNat / 256))) ∧
    (c.extractLsb' 0 8 = 0x13 → decode c = .command (.sm3Padblk (c.toNat / 256))) ∧
    ((∃ why, decode c = .illegal why) ↔ ∀ r ∈ opcodeTable, c &&& r.mask ≠ r.pattern) ∧
    (∀ i, decode c = .command i → ∃ r ∈ opcodeTable, r.mnemonic = i.mnemonic ∧ c &&& r.mask = r.pattern) ∧
    opcodeTable.Pairwise fun r q => ¬ (c &&& r.mask = r.pattern ∧ c &&& q.mask = q.pattern)

/-- The illegal words of 30_encoding.md section 3, and what the engine does with one: E_ILLEGAL, nothing but STATUS changed.
That the engine moves when no event is left, which the clause with `s.events = []` rests on, is the model's choice (log 2). -/
def Obligations.IllegalWordCompletesWithEIllegal : Prop :=
  (∀ c : Word,
    (∃ why, decode c = .illegal why) ↔
      let op := c.toNat % 256
      let idx := c.toNat / 256
      (0x0C ≤ op ∧ op ≤ 0x0F) ∨ 0x17 ≤ op ∨ (op ≠ 0x07 ∧ op ≠ 0x13 ∧ idx ≠ 0)) ∧
  ∀ (s : State) (c : Word) (why : IllegalReason), s.pending = some c → decode c = .illegal why →
    (∀ rest, s.events = .engine :: rest → step s = .next (completedWith 0x01 { s with events := rest })) ∧
    (s.events = [] → step s = .next (completedWith 0x01 s))

/-- The worked encodings of 30_encoding.md R110 (which the spec marks derived). -/
def Obligations.WorkedEncodingsDecode : Prop :=
  decode 0x00000000 = .command .nop ∧ decode 0x00000008 = .command .sm4Keyexp ∧
  decode 0x00000507 = .command (.sm4Round 5) ∧ decode 0x00001F07 = .command (.sm4Round 31) ∧
  decode 0x00002007 = .command (.sm4Round 32) ∧ decode 0x00000113 = .command (.sm3Padblk 1) ∧
  (decodeTableWord 32 0x00000109 = none) ∧ (decodeTableWord 32 0x0000000C = none)

/-! ## The command cycle -/

/-- A step runs the decoded command: when the engine moves and a command is in flight, the step is `exec` of what the
in-flight word decodes to. That the engine moves when no event is left is the model's choice (log 2). -/
def Obligations.StepPerformsTheDecodedCommand : Prop :=
  ∀ (s : State) (c : Word) (i : Instr), s.pending = some c → decode c = .command i →
    (∀ rest, s.events = .engine :: rest → step s = exec i { s with events := rest }) ∧
    (s.events = [] → step s = exec i s)

/-- 40_command_cycle.md R132: what a host write to CMD does, legal word or not, and that it is a hazard while a command is in
flight. -/
def Obligations.CmdWriteIssuesTheCommand : Prop :=
  ∀ (s : State) (rest : List Event) (c : Word), s.events = wr 0x000 c :: rest →
    (s.pending = none → step s = .next { s with
      events := rest
      cmd := c
      pending := some c
      status := { s.status with busy := true, done := false, err := false, errcode := 0x00 } }) ∧
    (s.pending ≠ none → step s = .fault .hazardBusy)

/-- 60_exceptions.md R312 and 40_command_cycle.md R136: the one error a command reports, by the first condition that holds,
with no register changed but STATUS; a command that meets none completes without setting ERR or ERRCODE. -/
def Obligations.ErrorsFollowThePriorityOrder : Prop :=
  ∀ (s : State) (c : Word) (rest : List Event), s.pending = some c → s.events = .engine :: rest →
    let u := { s with events := rest }
    let n := s.msglen.toNat
    (∀ why, decode c = .illegal why → step s = .next (completedWith 0x01 u)) ∧
    ∀ i, decode c = .command i →
      ((i = .sm4Enc ∨ i = .sm4Dec ∨ ∃ idx, i = .sm4Round idx) → s.status.rkv = false →
        step s = .next (completedWith 0x02 u)) ∧
      ((i = .sm3Digest ∨ ∃ idx, i = .sm3Padblk idx) → s.config.msgBytes < n → step s = .next (completedWith 0x04 u)) ∧
      (∀ idx, i = .sm4Round idx → s.status.rkv = true → 32 ≤ idx → step s = .next (completedWith 0x03 u)) ∧
      (∀ idx, i = .sm3Padblk idx → n ≤ s.config.msgBytes → (n + 72) / 64 ≤ idx →
        step s = .next (completedWith 0x03 u)) ∧
      (((i = .sm4Enc ∨ i = .sm4Dec ∨ ∃ idx, i = .sm4Round idx) → s.status.rkv = true) →
        ((i = .sm3Digest ∨ ∃ idx, i = .sm3Padblk idx) → n ≤ s.config.msgBytes) →
        (∀ idx, i = .sm4Round idx → idx < 32) → (∀ idx, i = .sm3Padblk idx → idx < (n + 72) / 64) →
        ∀ t, step s = .next t → t.status.err = s.status.err ∧ t.status.errcode = s.status.errcode)

/-! ## Frames -/

/-- What no command writes: CMD, KEY, DIN, SIN, MSGLEN and every byte of MSG; and the model's own fields. -/
def Obligations.CommandsLeaveTheHostsRegisters : Prop :=
  ∀ (i : Instr) (s t : State), exec i s = .next t →
    t.cmd = s.cmd ∧ t.key = s.key ∧ t.din = s.din ∧ t.sin = s.sin ∧ t.msglen = s.msglen ∧
    (∀ a, t.msg.read a = s.msg.read a) ∧
    t.config = s.config ∧ t.events = s.events ∧ t.rdata = s.rdata

/-- Each register changes only by the commands that the opcode map (30_encoding.md R103, column "writes") and
10_state.md R30 (column "written by") name for it. -/
def Obligations.CommandsWriteOnlyTheirRegisters : Prop :=
  ∀ (i : Instr) (s t : State), exec i s = .next t →
    (i ∉ [.sm4Sbox, .sm4Tau, .sm4L, .sm4Lk, .sm4T, .sm4Tk, .sm3P0, .sm3P1] → t.sout = s.sout) ∧
    (i ∉ [.sm4Enc, .sm4Dec] → (∀ idx, i ≠ .sm4Round idx) → t.x = s.x) ∧
    (i ∉ [.sm4Enc, .sm4Dec, .sm4Final] → t.dout = s.dout) ∧
    (i ≠ .sm4Keyexp → t.rk = s.rk ∧ t.status.rkv = s.status.rkv) ∧
    (i ∉ [.sm3Init, .sm3Compress, .sm3Digest] → t.v = s.v) ∧
    (i ≠ .sm3Digest → (∀ idx, i ≠ .sm3Padblk idx) → t.b = s.b) ∧
    (i ∉ [.sm3Expand, .sm3Digest] → t.w = s.w ∧ t.wp = s.wp)

/-! ## The commands: encoding, check, result, and everything else unchanged -/

/-- 40_command_cycle.md R140. -/
def Obligations.NopDoesNothing : Prop :=
  (∀ c : Word, decode c = .command .nop ↔ c = 0x00000000) ∧
  (∀ s : State, performWord 0x00000100 s = .next (completedWith 0x01 s)) ∧
  (∀ s : State, exec .nop s = .next (completed s)) ∧
  (∀ s : State, ∃ t, exec .nop (issue 0x00000000 s) = .next t ∧
    t.status = { s.status with busy := false, done := true, err := false, errcode := 0x00 }) ∧
  ∀ cfg : Config, ∃ t, exec .nop (issue 0x00000000 (.resetOf cfg)) = .next t ∧ statusWord t.status = 0x00000002

/-- 42_sm4_commands.md R200. -/
def Obligations.Sm4SboxResult : Prop :=
  (∀ c : Word, decode c = .command .sm4Sbox ↔ c = 0x00000001) ∧
  (∀ s : State, exec .sm4Sbox s = .next (completed { s with sout := 0#24 ++ sbox (s.sin.extractLsb' 0 8) })) ∧
  (∀ s : State, s.sin = 0x123456ef ∨ s.sin = 0x000000ef → exec .sm4Sbox s = .next (completed { s with sout := 0x00000084 })) ∧
  (∀ s : State, s.sin = 0x00000000 → exec .sm4Sbox s = .next (completed { s with sout := 0x000000d6 })) ∧
  ∀ s : State, s.sin = 0x000000ff → exec .sm4Sbox s = .next (completed { s with sout := 0x00000048 })

/-- 42_sm4_commands.md R201. -/
def Obligations.Sm4TauResult : Prop :=
  (∀ c : Word, decode c = .command .sm4Tau ↔ c = 0x00000002) ∧
  (∀ s : State, exec .sm4Tau s = .next (completed { s with sout := tauOf s.sin })) ∧
  tauOf 0x00000000 = 0xd6d6d6d6 ∧ tauOf 0xffffffff = 0x48484848 ∧ tauOf 0x00010203 = 0xd690e9fe

/-- 42_sm4_commands.md R202. -/
def Obligations.Sm4LResult : Prop :=
  (∀ c : Word, decode c = .command .sm4L ↔ c = 0x00000003) ∧
  (∀ s : State, exec .sm4L s = .next (completed { s with sout := diffused s.sin })) ∧
  diffused 0 = 0 ∧ diffused 0xffffffff = 0xffffffff ∧ diffused 0x00000001 = 0x01040405

/-- 42_sm4_commands.md R203. -/
def Obligations.Sm4LkResult : Prop :=
  (∀ c : Word, decode c = .command .sm4Lk ↔ c = 0x00000004) ∧
  (∀ s : State, exec .sm4Lk s = .next (completed { s with sout := keyDiffused s.sin })) ∧
  keyDiffused 0 = 0 ∧ keyDiffused 0xffffffff = 0xffffffff ∧ keyDiffused 0x00000001 = 0x00802001

/-- 42_sm4_commands.md R204: the S-box first, then L. -/
def Obligations.Sm4TResult : Prop :=
  (∀ c : Word, decode c = .command .sm4T ↔ c = 0x00000005) ∧
  (∀ s : State, exec .sm4T s = .next (completed { s with sout := diffused (tauOf s.sin) })) ∧
  diffused (tauOf 0) = 0x5b5b5b5b ∧ diffused (tauOf 0xffffffff) = 0x21212121 ∧ diffused (tauOf 0x01234567) = 0x6ef180c9

/-- 42_sm4_commands.md R205: the S-box first, then L'. -/
def Obligations.Sm4TkResult : Prop :=
  (∀ c : Word, decode c = .command .sm4Tk ↔ c = 0x00000006) ∧
  (∀ s : State, exec .sm4Tk s = .next (completed { s with sout := keyDiffused (tauOf s.sin) })) ∧
  keyDiffused (tauOf 0) = 0x67676767 ∧ keyDiffused (tauOf 0xffffffff) = 0x65656565 ∧
  keyDiffused (tauOf 0x01234567) = 0xcfc85b85

/-- 42_sm4_commands.md R206, with both checks in their order. -/
def Obligations.Sm4RoundResult : Prop :=
  (∀ (c : Word) (idx : Nat), decode c = .command (.sm4Round idx) ↔ idx < 2 ^ 24 ∧ c.toNat = idx * 256 + 0x07) ∧
  (∀ (idx : Nat) (s : State), s.status.rkv = false → exec (.sm4Round idx) s = .next (completedWith 0x02 s)) ∧
  (∀ (idx : Nat) (s : State), s.status.rkv = true → 32 ≤ idx → exec (.sm4Round idx) s = .next (completedWith 0x03 s)) ∧
  (∀ (idx : Nat) (h : idx < 32) (s : State), s.status.rkv = true →
    exec (.sm4Round idx) s = .next (completed { s with
      x := { w0 := s.x.w1, w1 := s.x.w2, w2 := s.x.w3, w3 := newWord s.x.w0 s.x.w1 s.x.w2 s.x.w3 s.rk[idx] } })) ∧
  ∀ s : State, s.status.rkv = true → s.rk = keyExpand katBlock → s.x = katBlock →
    exec (.sm4Round 0) s = .next (completed { s with x := ⟨0x89abcdef, 0xfedcba98, 0x76543210, 0x27fad345⟩ })

/-- 42_sm4_commands.md R207. What KeyExpand is, is stated by KeyScheduleFollowsTheRecurrence. -/
def Obligations.Sm4KeyexpResult : Prop :=
  (∀ c : Word, decode c = .command .sm4Keyexp ↔ c = 0x00000008) ∧
  (∀ s : State, exec .sm4Keyexp s =
    .next (completed { s with rk := keyExpand s.key, status := { s.status with rkv := true } })) ∧
  (∀ s t : State, exec .sm4Keyexp s = .next t →
    ∃ u, exec .sm4Keyexp t = .next u ∧ u.rk = t.rk ∧ u.status.rkv = true) ∧
  (keyExpand katBlock)[0] = 0xf12186f9 ∧ (keyExpand katBlock)[1] = 0x41662b61 ∧ (keyExpand katBlock)[31] = 0x9124a012

/-- SM4_ENC (42_sm4_commands.md section 4), with the rounds as the sequence X_0 to X_35 of 41_sm4_functions.md R175, which the
spec marks derived. -/
def Obligations.Sm4EncResult : Prop :=
  (∀ c : Word, decode c = .command .sm4Enc ↔ c = 0x00000009) ∧
  (∀ s : State, s.status.rkv = false → exec .sm4Enc s = .next (completedWith 0x02 s)) ∧
  (∀ s : State, s.status.rkv = true → ∃ X : Nat → Word,
    (X 0 = s.din.w0 ∧ X 1 = s.din.w1 ∧ X 2 = s.din.w2 ∧ X 3 = s.din.w3) ∧
    (∀ (i : Nat) (h : i < 32), X (i + 4) = newWord (X i) (X (i + 1)) (X (i + 2)) (X (i + 3)) s.rk[i]) ∧
    exec .sm4Enc s = .next (completed { s with
      x := ⟨X 32, X 33, X 34, X 35⟩
      dout := ⟨X 35, X 34, X 33, X 32⟩ })) ∧
  ∀ s : State, s.status.rkv = true → s.rk = keyExpand katBlock → s.din = katBlock →
    exec .sm4Enc s = .next (completed { s with
      x := ⟨0x536e4246, 0x86b3e94f, 0xd206965e, 0x681edf34⟩
      dout := ⟨0x681edf34, 0xd206965e, 0x86b3e94f, 0x536e4246⟩ })

/-- SM4_DEC (42_sm4_commands.md section 4): round i uses RK[31-i]. -/
def Obligations.Sm4DecResult : Prop :=
  (∀ c : Word, decode c = .command .sm4Dec ↔ c = 0x0000000A) ∧
  (∀ s : State, s.status.rkv = false → exec .sm4Dec s = .next (completedWith 0x02 s)) ∧
  (∀ s : State, s.status.rkv = true → ∃ X : Nat → Word,
    (X 0 = s.din.w0 ∧ X 1 = s.din.w1 ∧ X 2 = s.din.w2 ∧ X 3 = s.din.w3) ∧
    (∀ (i : Nat) (h : i < 32), X (i + 4) = newWord (X i) (X (i + 1)) (X (i + 2)) (X (i + 3)) s.rk[31 - i]) ∧
    exec .sm4Dec s = .next (completed { s with
      x := ⟨X 32, X 33, X 34, X 35⟩
      dout := ⟨X 35, X 34, X 33, X 32⟩ })) ∧
  ∀ s : State, s.status.rkv = true → s.rk = keyExpand katBlock →
    s.din = ⟨0x681edf34, 0xd206965e, 0x86b3e94f, 0x536e4246⟩ →
    exec .sm4Dec s = .next (completed { s with
      x := ⟨0x76543210, 0xfedcba98, 0x89abcdef, 0x01234567⟩
      dout := katBlock })

/-- 42_sm4_commands.md R210: no key is needed. -/
def Obligations.Sm4FinalResult : Prop :=
  (∀ c : Word, decode c = .command .sm4Final ↔ c = 0x0000000B) ∧
  (∀ s : State, exec .sm4Final s = .next (completed { s with dout := ⟨s.x.w3, s.x.w2, s.x.w1, s.x.w0⟩ })) ∧
  ∀ s : State, s.x = ⟨0x536e4246, 0x86b3e94f, 0xd206965e, 0x681edf34⟩ →
    exec .sm4Final s = .next (completed { s with dout := ⟨0x681edf34, 0xd206965e, 0x86b3e94f, 0x536e4246⟩ })

/-- 44_sm3_commands.md R280. -/
def Obligations.Sm3InitResult : Prop :=
  (∀ c : Word, decode c = .command .sm3Init ↔ c = 0x00000010) ∧
  ∀ s : State, exec .sm3Init s = .next (completed { s with
    v := #v[0x7380166f, 0x4914b2b9, 0x172442d7, 0xda8a0600, 0xa96f30bc, 0x163138aa, 0xe38dee4d, 0xb0fb0e4e] })

/-- 44_sm3_commands.md R281. -/
def Obligations.Sm3P0Result : Prop :=
  (∀ c : Word, decode c = .command .sm3P0 ↔ c = 0x00000011) ∧
  (∀ s : State, exec .sm3P0 s = .next (completed { s with sout := p0Of s.sin })) ∧
  p0Of 0 = 0 ∧ p0Of 0xffffffff = 0xffffffff ∧ p0Of 0x00000001 = 0x00020201

/-- 44_sm3_commands.md R282. -/
def Obligations.Sm3P1Result : Prop :=
  (∀ c : Word, decode c = .command .sm3P1 ↔ c = 0x00000012) ∧
  (∀ s : State, exec .sm3P1 s = .next (completed { s with sout := p1Of s.sin })) ∧
  p1Of 0 = 0 ∧ p1Of 0xffffffff = 0xffffffff ∧ p1Of 0x00000001 = 0x00808001

/-- SM3_PADBLK (44_sm3_commands.md section 2), byte by byte: byte q of B[i] is byte 64*idx + 4*i + q of the padded message, a
message byte being the one in MSG. The padded byte is 43_sm3_functions.md R233, which the spec marks derived. An unwritten
byte among those the block needs is UNWRITTEN_MSG. -/
def Obligations.Sm3PadblkResult : Prop :=
  (∀ (c : Word) (idx : Nat), decode c = .command (.sm3Padblk idx) ↔ idx < 2 ^ 24 ∧ c.toNat = idx * 256 + 0x13) ∧
  ∀ (idx : Nat) (s : State),
    let n := s.msglen.toNat
    (s.config.msgBytes < n → exec (.sm3Padblk idx) s = .next (completedWith 0x04 s)) ∧
    (n ≤ s.config.msgBytes → (n + 72) / 64 ≤ idx → exec (.sm3Padblk idx) s = .next (completedWith 0x03 s)) ∧
    (n ≤ s.config.msgBytes → idx < (n + 72) / 64 →
      (∃ p, 64 * idx ≤ p ∧ p < min (64 * idx + 64) n ∧ s.msg.read p = none) →
      exec (.sm3Padblk idx) s = .fault .unwrittenMsg) ∧
    (n ≤ s.config.msgBytes → idx < (n + 72) / 64 →
      (∀ p, 64 * idx ≤ p → p < min (64 * idx + 64) n → s.msg.read p ≠ none) →
      ∃ blk : Vector Word 16, exec (.sm3Padblk idx) s = .next (completed { s with b := blk }) ∧
        ∀ (i : Nat) (hi : i < 16) (q : Nat), q < 4 →
          some (blk[i].extractLsb' (24 - 8 * q) 8) = paddedByte s.msg.read n (64 * idx + 4 * i + q))

/-- 44_sm3_commands.md R284 with 43_sm3_functions.md R238 to R240: W starts with the block, follows the recurrence, and
WP[j] = W[j] ^ W[j+4]. -/
def Obligations.Sm3ExpandResult : Prop :=
  (∀ c : Word, decode c = .command .sm3Expand ↔ c = 0x00000014) ∧
  (∀ s : State, ∃ W : Nat → Word,
    (∀ (j : Nat) (h : j < 16), W j = s.b[j]) ∧
    (∀ j, 16 ≤ j → j < 68 →
      W j = p1Of (W (j - 16) ^^^ W (j - 9) ^^^ (W (j - 3)).rotateLeft 15) ^^^ (W (j - 13)).rotateLeft 7 ^^^ W (j - 6)) ∧
    exec .sm3Expand s = .next (completed { s with
      w := Vector.ofFn fun j : Fin 68 => W j
      wp := Vector.ofFn fun j : Fin 64 => W j ^^^ W (j + 4) })) ∧
  (∀ s : State, s.b = Vector.replicate 16 0 →
    exec .sm3Expand s = .next (completed { s with w := Vector.replicate 68 0, wp := Vector.replicate 64 0 })) ∧
  ∀ s : State, s.b = abcBlock → ∃ t, exec .sm3Expand s = .next t ∧
    t.w[16] = 0x9092e200 ∧ t.w[67] = 0xb99c0545 ∧ t.wp[0] = 0x61626380 ∧ t.wp[63] = 0x49e260d5

/-- SM3_COMPRESS (44_sm3_commands.md section 4): the 64 rounds from A..H = V in order, on W and WP as they stand, and the
feed-forward XOR once, after them. -/
def Obligations.Sm3CompressResult : Prop :=
  (∀ c : Word, decode c = .command .sm3Compress ↔ c = 0x00000015) ∧
  (∀ s : State, ∃ R : Nat → WorkRegs,
    R 0 = ⟨s.v[0], s.v[1], s.v[2], s.v[3], s.v[4], s.v[5], s.v[6], s.v[7]⟩ ∧
    (∀ (j : Nat) (h : j < 64), R (j + 1) = roundOf j s.w[j] s.wp[j] (R j)) ∧
    exec .sm3Compress s = .next (completed { s with
      v := #v[s.v[0] ^^^ (R 64).a, s.v[1] ^^^ (R 64).b, s.v[2] ^^^ (R 64).c, s.v[3] ^^^ (R 64).d,
              s.v[4] ^^^ (R 64).e, s.v[5] ^^^ (R 64).f, s.v[6] ^^^ (R 64).g, s.v[7] ^^^ (R 64).h] })) ∧
  ∀ s : State, s.v = sm3IV → s.w = expandW abcBlock → s.wp = expandWP s.w →
    exec .sm3Compress s = .next (completed { s with
      v := #v[0x66c7f0f4, 0x62eeedd9, 0xd1f2d46b, 0xdc10e4e2, 0x4167c487, 0x5cf2f7a2, 0x297da02b, 0x8f4ba8e0] })

/-- SM3_DIGEST (44_sm3_commands.md section 5) of the message `m` in MSG: V takes Digest(m), and B, W and WP what they are for
the last block. An unwritten message byte is UNWRITTEN_MSG. -/
def Obligations.Sm3DigestResult : Prop :=
  (∀ c : Word, decode c = .command .sm3Digest ↔ c = 0x00000016) ∧
  (∀ s : State, s.config.msgBytes < s.msglen.toNat → exec .sm3Digest s = .next (completedWith 0x04 s)) ∧
  (∀ (s : State) (p : Nat), s.msglen.toNat ≤ s.config.msgBytes → p < s.msglen.toNat → s.msg.read p = none →
    exec .sm3Digest s = .fault .unwrittenMsg) ∧
  (∀ (s : State) (m : List Byte), s.msglen.toNat = m.length → m.length ≤ s.config.msgBytes →
    (∀ (p : Nat) (h : p < m.length), s.msg.read p = some m[p]) →
    let last := padBlock (fun p => m.getD p 0) m.length ((m.length + 72) / 64 - 1)
    exec .sm3Digest s = .next (completed { s with
      v := digest (fun p => m.getD p 0) m.length
      b := last
      w := expandW last
      wp := expandWP (expandW last) })) ∧
  (∀ s : State, s.msglen = 0 → ∃ t, exec .sm3Digest s = .next t ∧ t.v =
    #v[0x1ab21d83, 0x55cfa17f, 0x8e611948, 0x31e81a8f, 0x22bec8c7, 0x28fefb74, 0x7ed035eb, 0x5082aa2b]) ∧
  ∀ s : State, s.msglen = 3 → s.msg.read 0 = some 0x61 → s.msg.read 1 = some 0x62 → s.msg.read 2 = some 0x63 →
    ∃ t, exec .sm3Digest s = .next t ∧ t.v =
      #v[0x66c7f0f4, 0x62eeedd9, 0xd1f2d46b, 0xdc10e4e2, 0x4167c487, 0x5cf2f7a2, 0x297da02b, 0x8f4ba8e0]

/-! ## Two designs of one operation -/

/-- SM4_ENC is: the block into X, the 32 single rounds 0 to 31, the final permutation. SM4_DEC is the same with the rounds
31 down to 0. -/
def Obligations.EncAndDecAreTheirRoundsAndFinal : Prop :=
  ∀ s : State, s.status.rkv = true →
    runCommands ((List.range 32).map .sm4Round ++ [.sm4Final]) { s with x := s.din } = exec .sm4Enc s ∧
    runCommands ((List.range 32).map (fun i => .sm4Round (31 - i)) ++ [.sm4Final]) { s with x := s.din } =
      exec .sm4Dec s

/-- SM3_DIGEST is: SM3_INIT, then SM3_PADBLK, SM3_EXPAND and SM3_COMPRESS for each block in order; where it takes its effect,
so does the block path, and both leave the same V, B, W and WP and the same message. -/
def Obligations.DigestIsTheBlockByBlockPath : Prop :=
  ∀ s t : State, s.msglen.toNat ≤ s.config.msgBytes → exec .sm3Digest s = .next t →
    ∃ u, runCommands
        (.sm3Init :: (List.range ((s.msglen.toNat + 72) / 64)).flatMap
          fun b => [.sm3Padblk b, .sm3Expand, .sm3Compress]) s = .next u ∧
      u.v = t.v ∧ u.b = t.b ∧ u.w = t.w ∧ u.wp = t.wp ∧ u.msg = t.msg ∧ u.msglen = t.msglen

/-- Decryption undoes encryption and encryption undoes decryption, for every block and key. -/
def Obligations.DecryptUndoesEncrypt : Prop :=
  ∀ p k : Block128, decryptBlock (encryptBlock p k) k = p ∧ encryptBlock (decryptBlock p k) k = p

/-- SM4_ENC, then DOUT copied into DIN, then SM4_DEC, gives the first DIN back, whatever the round keys. -/
def Obligations.DecAfterEncGivesTheBlockBack : Prop :=
  ∀ s : State, s.status.rkv = true → ∃ t u, exec .sm4Enc s = .next t ∧ exec .sm4Dec { t with din := t.dout } = .next u ∧
    u.dout = s.din

/-- In every state with the machine's invariant and RKV = 1, SM4_ENC and SM4_DEC work under the key that KEY holds. -/
def Obligations.EncAndDecUseTheCurrentKey : Prop :=
  ∀ s : State, Coherent s → s.status.rkv = true →
    (∃ t, exec .sm4Enc s = .next t ∧ t.dout = encryptBlock s.din s.key) ∧
    (∃ t, exec .sm4Dec s = .next t ∧ t.dout = decryptBlock s.din s.key)

/-! ## The functions -/

/-- SBOX takes 256 distinct values (41_sm4_functions.md R161, which the spec marks derived). -/
def Obligations.SboxIsInjective : Prop := ∀ a b : Byte, sbox a = sbox b → a = b

/-- 41_sm4_functions.md R163: the formula, its corner cases and its linearity. -/
def Obligations.RoundDiffusionIsLinear : Prop :=
  (∀ t : Word, sm4L t = t ^^^ t.rotateLeft 2 ^^^ t.rotateLeft 10 ^^^ t.rotateLeft 18 ^^^ t.rotateLeft 24) ∧
  (∀ a b : Word, sm4L (a ^^^ b) = sm4L a ^^^ sm4L b) ∧
  sm4L 0 = 0 ∧ sm4L 0xffffffff = 0xffffffff ∧ sm4L 0x00000001 = 0x01040405 ∧ sm4L 0x80000000 = 0x80820202

/-- The key schedule (41_sm4_functions.md section 4): the masked key, the recurrence with CK[i] by its byte formula, and
rk[i] = K[i+4]. -/
def Obligations.KeyScheduleFollowsTheRecurrence : Prop :=
  (∀ k : Block128, ∃ K : Nat → Word,
    K 0 = k.w0 ^^^ 0xA3B1BAC6 ∧ K 1 = k.w1 ^^^ 0x56AA3350 ∧ K 2 = k.w2 ^^^ 0x677D9197 ∧ K 3 = k.w3 ^^^ 0xB27022DC ∧
    (∀ i, i < 32 →
      let ck : Word := BitVec.ofNat 8 (7 * (4 * i)) ++ BitVec.ofNat 8 (7 * (4 * i + 1)) ++
        BitVec.ofNat 8 (7 * (4 * i + 2)) ++ BitVec.ofNat 8 (7 * (4 * i + 3))
      K (i + 4) = K i ^^^ keyDiffused (tauOf (K (i + 1) ^^^ K (i + 2) ^^^ K (i + 3) ^^^ ck))) ∧
    ∀ (i : Nat) (h : i < 32), (keyExpand k)[i] = K (i + 4)) ∧
  (keyExpand ⟨0, 0, 0, 0⟩)[0] = 0x45603b23 ∧ (keyExpand ⟨0, 0, 0, 0⟩)[31] = 0xa16ca108

/-- NB(n) (43_sm3_functions.md R234, which the spec marks derived): the padding adds 9 bytes and 0 to 63 zeros to a whole
number of blocks; and NBLK never overflows (10_state.md R50). -/
def Obligations.BlockCountIsTheLeastThatFits : Prop :=
  (∀ n, ∃ z, z ≤ 63 ∧ 64 * blockCount n = n + 1 + z + 8) ∧
  blockCount 0 = 1 ∧ blockCount 55 = 1 ∧ blockCount 56 = 2 ∧ blockCount 63 = 2 ∧ blockCount 64 = 2 ∧
  blockCount 119 = 2 ∧ blockCount 120 = 3 ∧
  ∀ s : State, (readReg s .nblk).toNat = (s.msglen.toNat + 72) / 64 ∧ (readReg s .nblk).toNat ≤ 0x04000001

/-- The blocks of the padded message, one after the other, are byte for byte what the procedure of DOC0 section 4.5 gives: the
message, 0x80, zeros to 56 mod 64, the bit length as a 64-bit big-endian integer (43_sm3_functions.md R236, marked derived). -/
def Obligations.PaddingIsTheByteProcedure : Prop :=
  ∀ m : List Byte, m.length < 2 ^ 61 →
    let n := m.length
    let bits := BitVec.ofNat 64 (8 * n)
    ∃ z, (n + 1 + z) % 64 = 56 ∧ z ≤ 63 ∧
      ((List.range (blockCount n)).flatMap fun b => (padBlock (fun p => m.getD p 0) n b).toList.flatMap wordBytes) =
        m ++ [0x80] ++ List.replicate z 0x00 ++ wordBytes (bits.extractLsb' 32 32) ++ wordBytes (bits.extractLsb' 0 32)

/-- A block of the padded message depends only on its own message bytes, so blocks may be formed in any order. -/
def Obligations.PadBlockReadsOnlyItsOwnBytes : Prop :=
  ∀ (m m' : Nat → Byte) (n b : Nat), b < blockCount n →
    (∀ p, 64 * b ≤ p → p < min (64 * b + 64) n → m p = m' p) → padBlock m n b = padBlock m' n b

/-- Expansion locality in the exact form of 43_sm3_functions.md R242 (marked derived): a change of W[k] changes WP[k] and
WP[k-4], where they exist, and no other WP word. -/
def Obligations.ExpansionIsLocal : Prop :=
  ∀ (w : Vector Word 68) (k : Nat) (hk : k < 68) (x : Word), x ≠ w[k] → ∀ (j : Nat) (hj : j < 64),
    ((expandWP (w.set k x))[j] ≠ (expandWP w)[j] ↔ j = k ∨ j + 4 = k)

/-! ## The host port -/

/-- An unsupported access is HOST_ACCESS (20_memory.md section 1), in every state. That it is so too while a command is in
flight, where HAZARD_BUSY applies as well, is the model's choice (log 6). -/
def Obligations.UnsupportedAccessIsHostAccess : Prop :=
  ∀ (s : State) (rest : List Event) (off : BitVec 17) (size : Nat) (val : Word), size ≠ 4 ∨ off.toNat % 4 ≠ 0 →
    (s.events = .host (.read off size) :: rest → step s = .fault .hostAccess) ∧
    (s.events = .host (.write off size val) :: rest → step s = .fault .hostAccess)

/-- 70_reset_and_hazards.md R345, for the transactions R72 supports (for the others, UnsupportedAccessIsHostAccess: that the
unsupported access is judged first is the model's choice, log 6). That a read of an unwritten MSG word, which R78 makes
UNWRITTEN_MSG, is HAZARD_BUSY while a command is in flight is the model's choice too (log 6). -/
def Obligations.OnlyStatusMayBeReadInFlight : Prop :=
  ∀ (s : State) (rest : List Event) (off : BitVec 17) (val : Word), s.pending ≠ none → off.toNat % 4 = 0 →
    (s.events = rd off :: rest → off = 0x004 →
      step s = .next { s with events := rest, rdata := some (statusWord s.status) }) ∧
    (s.events = rd off :: rest → off ≠ 0x004 → step s = .fault .hazardBusy) ∧
    (s.events = wr off val :: rest → step s = .fault .hazardBusy)

/-- 10_state.md R33: the STATUS word bit by bit, 0 at reset; a read of it is always allowed and changes nothing but the port's
answer, and a write to it is ignored. -/
def Obligations.StatusWordHasItsFields : Prop :=
  (∀ (s : State) (rest : List Event), s.events = rd 0x004 :: rest → ∃ v : Word,
    step s = .next { s with events := rest, rdata := some v } ∧
    v.getLsbD 0 = s.status.busy ∧ v.getLsbD 1 = s.status.done ∧ v.getLsbD 2 = s.status.err ∧
    v.getLsbD 3 = s.status.rkv ∧ v.extractLsb' 4 4 = 0 ∧ v.extractLsb' 8 8 = s.status.errcode ∧
    v.extractLsb' 16 16 = 0) ∧
  (∀ (s : State) (rest : List Event) (val : Word), s.pending = none → s.events = wr 0x004 val :: rest →
    step s = .next { s with events := rest }) ∧
  ∀ cfg : Config, statusWord (State.resetOf cfg).status = 0x00000000

/-- 20_memory.md R74: a read changes no register (only the port's answer), and the same read again, after any other reads,
gives the same value. -/
def Obligations.ReadsHaveNoSideEffect : Prop :=
  ∀ (s t : State) (rest : List Event) (off : BitVec 17) (size : Nat),
    s.events = .host (.read off size) :: rest → step s = .next t →
    t = { s with events := rest, rdata := t.rdata } ∧
    ∀ (between : List (BitVec 17 × Nat)) (rest' : List Event) (u : State),
      RunsTo between.length
        { t with events := between.map (fun r => .host (.read r.1 r.2)) ++ .host (.read off size) :: rest' } u →
      ∃ w, step u = .next w ∧ w.rdata = t.rdata

/-- What a host read of each register returns, by its offset (10_state.md R30). -/
def Obligations.HostReadsTheRegistersAtTheirOffsets : Prop :=
  ∀ (s : State) (off : BitVec 17) (rest : List Event), s.pending = none → s.events = rd off :: rest →
    let gives := fun v : Word => step s = .next { s with events := rest, rdata := some v }
    (off.toNat = 0x000 → gives s.cmd) ∧
    (off.toNat = 0x010 → gives s.key.w0) ∧ (off.toNat = 0x014 → gives s.key.w1) ∧
    (off.toNat = 0x018 → gives s.key.w2) ∧ (off.toNat = 0x01C → gives s.key.w3) ∧
    (off.toNat = 0x020 → gives s.din.w0) ∧ (off.toNat = 0x024 → gives s.din.w1) ∧
    (off.toNat = 0x028 → gives s.din.w2) ∧ (off.toNat = 0x02C → gives s.din.w3) ∧
    (off.toNat = 0x030 → gives s.dout.w0) ∧ (off.toNat = 0x034 → gives s.dout.w1) ∧
    (off.toNat = 0x038 → gives s.dout.w2) ∧ (off.toNat = 0x03C → gives s.dout.w3) ∧
    (off.toNat = 0x040 → gives s.x.w0) ∧ (off.toNat = 0x044 → gives s.x.w1) ∧
    (off.toNat = 0x048 → gives s.x.w2) ∧ (off.toNat = 0x04C → gives s.x.w3) ∧
    (off.toNat = 0x050 → gives s.sin) ∧ (off.toNat = 0x054 → gives s.sout) ∧ (off.toNat = 0x060 → gives s.msglen) ∧
    (off.toNat = 0x064 → gives (BitVec.ofNat 32 ((s.msglen.toNat + 72) / 64))) ∧
    (∀ (i : Nat) (h : i < 32), off.toNat = 0x080 + 4 * i → gives s.rk[i]) ∧
    (∀ (i : Nat) (h : i < 8), off.toNat = 0x100 + 4 * i → gives s.v[i]) ∧
    (∀ (i : Nat) (h : i < 16), off.toNat = 0x140 + 4 * i → gives s.b[i]) ∧
    (∀ (i : Nat) (h : i < 68), off.toNat = 0x200 + 4 * i → gives s.w[i]) ∧
    (∀ (i : Nat) (h : i < 64), off.toNat = 0x400 + 4 * i → gives s.wp[i])

/-- 20_memory.md R73. -/
def Obligations.ReadOnlyAndReservedOffsetsIgnoreWrites : Prop :=
  ∀ (s : State) (rest : List Event) (off : BitVec 17) (val : Word), s.pending = none → off.toNat % 4 = 0 →
    (readOnlyOffset off.toNat ∨ reservedOffset s.config.msgBytes off.toNat → s.events = wr off val :: rest →
      step s = .next { s with events := rest }) ∧
    (reservedOffset s.config.msgBytes off.toNat → s.events = rd off :: rest →
      step s = .next { s with events := rest, rdata := some 0x00000000 })

/-- What a host write to each writable register but CMD does (20_memory.md section 1): KEY also clears RKV, and nothing else
has a side effect; MSGLEN takes any value. -/
def Obligations.HostWritesTheRegistersAtTheirOffsets : Prop :=
  ∀ (s : State) (off : BitVec 17) (val : Word) (rest : List Event), s.pending = none → s.events = wr off val :: rest →
    let keyed := fun k : Block128 =>
      step s = .next { s with events := rest, key := k, status := { s.status with rkv := false } }
    (off.toNat = 0x010 → keyed { s.key with w0 := val }) ∧ (off.toNat = 0x014 → keyed { s.key with w1 := val }) ∧
    (off.toNat = 0x018 → keyed { s.key with w2 := val }) ∧ (off.toNat = 0x01C → keyed { s.key with w3 := val }) ∧
    (off.toNat = 0x020 → step s = .next { s with events := rest, din := { s.din with w0 := val } }) ∧
    (off.toNat = 0x024 → step s = .next { s with events := rest, din := { s.din with w1 := val } }) ∧
    (off.toNat = 0x028 → step s = .next { s with events := rest, din := { s.din with w2 := val } }) ∧
    (off.toNat = 0x02C → step s = .next { s with events := rest, din := { s.din with w3 := val } }) ∧
    (off.toNat = 0x040 → step s = .next { s with events := rest, x := { s.x with w0 := val } }) ∧
    (off.toNat = 0x044 → step s = .next { s with events := rest, x := { s.x with w1 := val } }) ∧
    (off.toNat = 0x048 → step s = .next { s with events := rest, x := { s.x with w2 := val } }) ∧
    (off.toNat = 0x04C → step s = .next { s with events := rest, x := { s.x with w3 := val } }) ∧
    (off.toNat = 0x050 → step s = .next { s with events := rest, sin := val }) ∧
    (off.toNat = 0x060 → step s = .next { s with events := rest, msglen := val }) ∧
    (∀ (i : Nat) (h : i < 8), off.toNat = 0x100 + 4 * i → step s = .next { s with events := rest, v := s.v.set i val }) ∧
    (∀ (i : Nat) (h : i < 16), off.toNat = 0x140 + 4 * i → step s = .next { s with events := rest, b := s.b.set i val })

/-- 20_memory.md R76: a write in the MSG window stores its four bytes big-endian and leaves every other byte; no command
writes MSG. -/
def Obligations.MsgWriteStoresFourBytesBigEndian : Prop :=
  (∀ (s : State) (rest : List Event) (a : Nat) (off : BitVec 17) (val : Word), s.pending = none → a % 4 = 0 →
    a < s.config.msgBytes → off.toNat = 0x10000 + a → s.events = wr off val :: rest →
    ∃ m : Memory, step s = .next { s with events := rest, msg := m } ∧
      m.read a = some (val.extractLsb' 24 8) ∧ m.read (a + 1) = some (val.extractLsb' 16 8) ∧
      m.read (a + 2) = some (val.extractLsb' 8 8) ∧ m.read (a + 3) = some (val.extractLsb' 0 8) ∧
      ∀ p, p < a ∨ a + 4 ≤ p → m.read p = s.msg.read p) ∧
  ∀ (i : Instr) (s t : State), exec i s = .next t → t.msg = s.msg

/-- 20_memory.md R78. -/
def Obligations.MsgReadReturnsFourBytesOrFaults : Prop :=
  ∀ (s : State) (rest : List Event) (a : Nat) (off : BitVec 17), s.pending = none → a % 4 = 0 → a < s.config.msgBytes →
    off.toNat = 0x10000 + a → s.events = rd off :: rest →
    (∀ b0 b1 b2 b3 : Byte, s.msg.read a = some b0 → s.msg.read (a + 1) = some b1 → s.msg.read (a + 2) = some b2 →
      s.msg.read (a + 3) = some b3 → step s = .next { s with events := rest, rdata := some (b0 ++ b1 ++ b2 ++ b3) }) ∧
    (s.msg.read a = none ∨ s.msg.read (a + 1) = none ∨ s.msg.read (a + 2) = none ∨ s.msg.read (a + 3) = none →
      step s = .fault .unwrittenMsg)

/-- A word written in the MSG window is read back as it was written. -/
def Obligations.MsgReadAfterWriteGivesTheWord : Prop :=
  ∀ (s : State) (rest : List Event) (off : BitVec 17) (val : Word), s.pending = none → off.toNat % 4 = 0 →
    0x10000 ≤ off.toNat → off.toNat < 0x10000 + s.config.msgBytes → s.events = wr off val :: rd off :: rest →
    ∃ t u, step s = .next t ∧ step t = .next u ∧ u.rdata = some val ∧ u.events = rest

/-- Each register stands at the one offset 10_state.md R30 gives it, and each word offset is one place of the map of
20_memory.md R71. -/
def Obligations.RegisterMapIsOneToOne : Prop :=
  ∀ cfg : Config,
    (∀ r : Reg, locate cfg (BitVec.ofNat 17 r.offset) = .reg r) ∧
    ∀ off : BitVec 17, off.toNat % 4 = 0 →
      (∀ r : Reg, locate cfg off = .reg r → off.toNat = r.offset) ∧
      (∀ a, locate cfg off = .msg a ↔ off.toNat = 0x10000 + a ∧ a < cfg.msgBytes) ∧
      (locate cfg off = .reserved ↔ reservedOffset cfg.msgBytes off.toNat)

/-! ## The whole machine -/

/-- 70_reset_and_hazards.md R341: every register at its reset value from any state, an in-flight command abandoned, every
written mark clear, NBLK reading 1. That the events still to come stay and the port's last answer goes is the model's
(log 2, log 7); the fault mark is the end of the run (log 4). -/
def Obligations.ResetClearsEveryRegister : Prop :=
  ∀ (s : State) (rest : List Event), s.events = .reset :: rest → ∃ t, step s = .next t ∧
    t.cmd = 0 ∧ statusWord t.status = 0 ∧
    t.status.busy = false ∧ t.status.done = false ∧ t.status.err = false ∧ t.status.rkv = false ∧ t.status.errcode = 0 ∧
    t.key = ⟨0, 0, 0, 0⟩ ∧ t.din = ⟨0, 0, 0, 0⟩ ∧ t.dout = ⟨0, 0, 0, 0⟩ ∧ t.x = ⟨0, 0, 0, 0⟩ ∧
    t.sin = 0 ∧ t.sout = 0 ∧ t.msglen = 0 ∧ readReg t .nblk = 1 ∧
    (∀ (i : Nat) (h : i < 32), t.rk[i] = 0) ∧ (∀ (i : Nat) (h : i < 8), t.v[i] = 0) ∧
    (∀ (i : Nat) (h : i < 16), t.b[i] = 0) ∧ (∀ (i : Nat) (h : i < 68), t.w[i] = 0) ∧
    (∀ (i : Nat) (h : i < 64), t.wp[i] = 0) ∧
    t.pending = none ∧ (∀ p, t.msg.read p = none) ∧ t.config = s.config

/-- The machine's invariant (Safety.lean, `Coherent`) holds after reset, whatever MSG_BYTES. -/
def Obligations.CoherentAfterReset : Prop := (∀ cfg : Config, Coherent (.resetOf cfg)) ∧ Coherent State.reset

/-- Every step keeps the machine's invariant: BUSY is the presence of a command in flight, BUSY and DONE never hold together,
ERR is ERRCODE != 0, only the four error codes are produced, RKV means that RK is the expansion of KEY, CMD and the in-flight
word agree, and MSG keeps its canonical form inside its bounds. MSG_BYTES is fixed: no step changes it. -/
def Obligations.StepKeepsCoherent : Prop :=
  ∀ s t : State, Coherent s → step s = .next t → Coherent t ∧ t.config = s.config

/-- What sets RKV, what clears it, that no other event changes it, and that the commands which need round keys report E_NOKEY
without it (10_state.md R37). That the engine moves when no event is left, which the clauses with `s.events = []` rest on, is
the model's choice (log 2). -/
def Obligations.RkvChangesOnlyAsSaid : Prop :=
  ∀ s t : State, step s = .next t →
    (∀ rest, s.events = .reset :: rest → t.status.rkv = false) ∧
    (∀ (off : BitVec 17) (val : Word) (rest : List Event), s.events = wr off val :: rest →
      0x010 ≤ off.toNat → off.toNat ≤ 0x01C → t.status.rkv = false) ∧
    (∀ rest, s.events = .engine :: rest ∨ s.events = [] → s.pending = some 0x00000008 → t.status.rkv = true) ∧
    (t.status.rkv ≠ s.status.rkv →
      (∃ rest, s.events = .reset :: rest) ∨
      (∃ (off : BitVec 17) (val : Word) (rest : List Event), s.events = wr off val :: rest ∧ 0x010 ≤ off.toNat ∧
        off.toNat ≤ 0x01C) ∨
      ((∃ rest, s.events = .engine :: rest) ∨ s.events = []) ∧ s.pending = some 0x00000008) ∧
    (∀ rest c, s.events = .engine :: rest ∨ s.events = [] → s.pending = some c → s.status.rkv = false →
      (decode c = .command .sm4Enc ∨ decode c = .command .sm4Dec ∨ ∃ idx, decode c = .command (.sm4Round idx)) →
      t.status.err = true ∧ t.status.errcode = 0x02)

/-- RK, W and WP, which the host cannot write, change only by reset or by a command of their own (10_state.md sections 3
and 5): RK by SM4_KEYEXP, W and WP by SM3_EXPAND and SM3_DIGEST. -/
def Obligations.RoundKeysAndExpansionChangeOnlyByTheirCommands : Prop :=
  ∀ s t : State, step s = .next t → (∀ rest, s.events ≠ .reset :: rest) →
    (t.rk ≠ s.rk → s.pending = some 0x00000008 ∧ t.pending = none) ∧
    (t.w ≠ s.w ∨ t.wp ≠ s.wp → (s.pending = some 0x00000014 ∨ s.pending = some 0x00000016) ∧ t.pending = none)

/-- Neither the latency of a command nor the number of polls changes its result: after k reads of STATUS the engine leaves
what it leaves at once, but for the port's answer, and faults where it faults at once. -/
def Obligations.PollingDoesNotChangeTheResult : Prop :=
  ∀ (k : Nat) (s : State) (c : Word) (rest : List Event), s.pending = some c →
    let polled := { s with events := List.replicate (k + 1) (rd 0x004) ++ .engine :: rest }
    let atOnce := { s with events := .engine :: rest }
    (∀ t, step atOnce = .next t →
      RunsTo (k + 2) polled { t with rdata := some (statusWord s.status) }) ∧
    (∀ r, step atOnce = .fault r → Host.Core.run core (k + 2) polled = .fault r)

/-- An idle core does nothing of itself: with no command in flight, the engine's move and the end of the events change no
register. That the engine's move is then passed over is the model's choice (log 2). -/
def Obligations.IdleCoreKeepsItsState : Prop :=
  ∀ s : State, s.pending = none →
    (s.events = [] → step s = .next s) ∧ (∀ rest, s.events = .engine :: rest → step s = .next { s with events := rest })


/-- A command in flight completes, with BUSY = 0 and DONE = 1, in the engine's one move (40_command_cycle.md section 3),
unless it is SM3_PADBLK or SM3_DIGEST and its message is not all written. -/
def Obligations.EngineMoveCompletesTheCommand : Prop :=
  ∀ (s : State) (c : Word) (rest : List Event), s.pending = some c → s.events = .engine :: rest →
    (∃ t, step s = .next t ∧ t.pending = none ∧ t.status.busy = false ∧ t.status.done = true ∧ t.events = rest) ∨
    (step s = .fault .unwrittenMsg ∧ (decode c = .command .sm3Digest ∨ ∃ idx, decode c = .command (.sm3Padblk idx)) ∧
      ∃ p, p < s.msglen.toNat ∧ s.msg.read p = none)
end

