-- ==== Sys2Proof/Laws/Functions.lean ====
section
/-! SUPPORT. Small laws of the pure functions: rotation, the words of a block, register files. -/

namespace Sys2Proof.Machine

/-- `rol` is the library's rotation. -/
theorem rol_eq_rotateLeft (x : Word) (n : Nat) : rol x n = x.rotateLeft n := by
  simp [rol, BitVec.rotateLeft, BitVec.rotateLeftAux]

@[simp] theorem blockWord_setBlockWord (x : Block128) (i j : Fin 4) (v : Word) :
    blockWord (setBlockWord x i v) j = if j = i then v else blockWord x j := by
  fin_cases i <;> fin_cases j <;> rfl

@[simp] theorem toFile_toList {n : Nat} (l : List Word) (h : l.length = n) : (toFile l h).toList = l := rfl

@[simp] theorem wordAt_lt {n : Nat} (v : Vector Word n) (i : Nat) (h : i < n) : wordAt v i = v[i] := by
  simp [wordAt, h]

@[simp] theorem reverseKeys_toList (rk : Vector Word 32) : (reverseKeys rk).toList = rk.toList.reverse := rfl

/-- The last element of a sequence given by a recurrence is formed from all the others. -/
theorem extend_last (next : Nat → List Word → Word) (n j : Nat) (r : List Word) :
    extend next (n + 1) j r = next (j + n) (extend next n j r) :: extend next n j r := by
  induction n generalizing j r with
  | zero => rfl
  | succ n ih =>
    rw [extend, ih, show j + 1 + n = j + (n + 1) by omega]
    rfl

/-- A longer sequence without its newest elements is the shorter one. -/
theorem extend_drop (next : Nat → List Word → Word) (n m j : Nat) (r : List Word) :
    (extend next (n + m) j r).drop m = extend next n j r := by
  induction m with
  | zero => rfl
  | succ m ih => rw [← Nat.add_assoc, extend_last, List.drop_succ_cons, ih]

/-- Rounds on a longer list of words are the rounds on its first part and then on the rest. -/
theorem sm3Rounds_append (j : Nat) (l m : List (Word × Word)) (s : WorkRegs) :
    sm3Rounds j (l ++ m) s = sm3Rounds (j + l.length) m (sm3Rounds j l s) := by
  induction l generalizing j s with
  | nil => rfl
  | cons c l ih =>
    obtain ⟨x, y⟩ := c
    simp only [List.cons_append, sm3Rounds, List.length_cons, ih]
    congr 1
    omega

/-- A padded byte depends on the message only where it is a message byte. -/
theorem padByte_congr {m m' : Nat → Byte} {n p : Nat} (h : p < n → m p = m' p) : padByte m n p = padByte m' n p := by
  unfold padByte
  split
  · exact h ‹_›
  · rfl

/-- The V register after the digest loop is the fold of the compression alone. -/
theorem digestStep_foldl_v (m : Nat → Byte) (n : Nat) (l : List Nat) (r : DigestRegs) :
    (l.foldl (digestStep m n) r).v =
      l.foldl (fun v b => compress v (expandW (padBlock m n b)) (expandWP (expandW (padBlock m n b)))) r.v := by
  induction l generalizing r with
  | nil => rfl
  | cons b l ih => simp only [List.foldl_cons, ih, digestStep]

end Sys2Proof.Machine
end

