-- ==== Sys2Proof/Laws/Memory.lean ====
section
/-! SUPPORT. The laws of the MSG buffer: a read after a write, and that every write keeps the canonical form. -/

namespace Sys2Proof.Machine.Memory

open Sys2Proof

@[simp] theorem read_nil (p : Nat) : Memory.read [] p = none := rfl

/-- A byte reads as last written, and a write leaves every other byte alone. -/
theorem read_write (m : Memory) (a p : Nat) (u : Byte) :
    (m.write a u).read p = if p = a then some u else m.read p := by
  induction m with
  | nil => simp only [Memory.write, Memory.read, eq_comm]
  | cons c m ih =>
    obtain ⟨k, w⟩ := c
    simp only [Memory.write]
    split
    · simp only [Memory.read, eq_comm (a := a)]
    · split
      · next h =>
        subst h
        by_cases hp : a = p
        · simp [Memory.read, hp]
        · simp [Memory.read, hp, Ne.symm hp]
      · next hlt hne =>
        by_cases hk : k = p
        · subst hk; simp [Memory.read, Ne.symm hne]
        · simp [Memory.read, hk, ih]

/-- The entries after a write are the written one and old ones. -/
theorem mem_write {m : Memory} {a : Nat} {u : Byte} {c : Host.Cell} (h : c ∈ m.write a u) : c = (a, u) ∨ c ∈ m := by
  induction m with
  | nil => simpa [Memory.write] using h
  | cons d m ih =>
    obtain ⟨k, w⟩ := d
    simp only [Memory.write] at h
    split at h
    · simpa using h
    · split at h
      · simp only [List.mem_cons] at h ⊢; tauto
      · simp only [List.mem_cons] at h ⊢
        rcases h with h | h
        · exact .inr (.inl h)
        · exact (ih h).imp id .inr

/-- A write keeps the canonical form. -/
theorem write_wf {m : Memory} (hm : m.wf) (a : Nat) (u : Byte) : (m.write a u).wf := by
  induction m with
  | nil => simp [Memory.write, Memory.wf]
  | cons d m ih =>
    obtain ⟨k, w⟩ := d
    obtain ⟨hk, hm'⟩ := List.pairwise_cons.1 hm
    simp only [Memory.write]
    split
    · next h =>
      refine List.pairwise_cons.2 ⟨fun c hc => ?_, hm⟩
      rcases List.mem_cons.1 hc with rfl | hc
      · exact h
      · exact h.trans (hk c hc)
    · split
      · next h => subst h; exact List.pairwise_cons.2 ⟨hk, hm'⟩
      · refine List.pairwise_cons.2 ⟨fun c hc => ?_, ih hm'⟩
        rcases mem_write hc with rfl | hc
        · change k < a; omega
        · exact hk c hc

/-- A write inside the buffer stays inside it. -/
theorem write_within {m : Memory} {size a : Nat} (hm : m.within size) (ha : a < size) (u : Byte) :
    (m.write a u).within size := by
  intro c hc
  rcases mem_write hc with rfl | hc
  · exact ha
  · exact hm c hc

theorem writeWord_wf {m : Memory} (hm : m.wf) (a : Nat) (v : Word) : (m.writeWord a v).wf :=
  write_wf (write_wf (write_wf (write_wf hm _ _) _ _) _ _) _ _

theorem writeWord_within {m : Memory} {size a : Nat} (hm : m.within size) (ha : a + 3 < size) (v : Word) :
    (m.writeWord a v).within size :=
  write_within (write_within (write_within (write_within hm (by omega) _) (by omega) _) (by omega) _) ha _

/-- What each byte reads as after the store of a word. -/
theorem read_writeWord (m : Memory) (a p : Nat) (v : Word) :
    (m.writeWord a v).read p = if a ≤ p ∧ p < a + 4 then some (byteOf v (p - a)) else m.read p := by
  simp only [Memory.writeWord, read_write]
  split
  · next h => subst h; simp
  split
  · next h => subst h; simp
  split
  · next h => subst h; simp
  split
  · next h => subst h; simp
  · rw [if_neg (by omega)]

/-- The bytes of `written` one by one. -/
theorem written_iff (m : Memory) (lo hi : Nat) :
    m.written lo hi = true ↔ ∀ p, lo ≤ p → p < hi → (m.read p).isSome = true := by
  simp only [Memory.written, List.all_eq_true, List.mem_range]
  constructor
  · intro h p h1 h2
    have := h (p - lo) (by omega)
    rwa [Nat.add_sub_cancel' h1] at this
  · intro h k hk
    exact h _ (by omega) (by omega)

end Sys2Proof.Machine.Memory
end

