-- ==== Sys2Proof/Laws/State.lean ====
section
/-! SUPPORT. One lemma per field for each named update of State, so that no proof unfolds a record update. -/

namespace Sys2Proof.Machine

section
variable (s : State)

@[simp] theorem complete_config : (complete s).config = s.config := rfl
@[simp] theorem complete_events : (complete s).events = s.events := rfl
@[simp] theorem complete_rdata : (complete s).rdata = s.rdata := rfl
@[simp] theorem complete_cmd : (complete s).cmd = s.cmd := rfl
@[simp] theorem complete_pending : (complete s).pending = none := rfl
@[simp] theorem complete_status : (complete s).status = s.status.completed := rfl
@[simp] theorem complete_key : (complete s).key = s.key := rfl
@[simp] theorem complete_din : (complete s).din = s.din := rfl
@[simp] theorem complete_dout : (complete s).dout = s.dout := rfl
@[simp] theorem complete_x : (complete s).x = s.x := rfl
@[simp] theorem complete_sin : (complete s).sin = s.sin := rfl
@[simp] theorem complete_sout : (complete s).sout = s.sout := rfl
@[simp] theorem complete_msglen : (complete s).msglen = s.msglen := rfl
@[simp] theorem complete_rk : (complete s).rk = s.rk := rfl
@[simp] theorem complete_v : (complete s).v = s.v := rfl
@[simp] theorem complete_b : (complete s).b = s.b := rfl
@[simp] theorem complete_w : (complete s).w = s.w := rfl
@[simp] theorem complete_wp : (complete s).wp = s.wp := rfl
@[simp] theorem complete_msg : (complete s).msg = s.msg := rfl

end

section
variable (e : ErrCode) (s : State)

@[simp] theorem completeError_config : (completeError e s).config = s.config := rfl
@[simp] theorem completeError_events : (completeError e s).events = s.events := rfl
@[simp] theorem completeError_rdata : (completeError e s).rdata = s.rdata := rfl
@[simp] theorem completeError_cmd : (completeError e s).cmd = s.cmd := rfl
@[simp] theorem completeError_pending : (completeError e s).pending = none := rfl
@[simp] theorem completeError_status : (completeError e s).status = (s.status.failed e).completed := rfl
@[simp] theorem completeError_key : (completeError e s).key = s.key := rfl
@[simp] theorem completeError_din : (completeError e s).din = s.din := rfl
@[simp] theorem completeError_dout : (completeError e s).dout = s.dout := rfl
@[simp] theorem completeError_x : (completeError e s).x = s.x := rfl
@[simp] theorem completeError_sin : (completeError e s).sin = s.sin := rfl
@[simp] theorem completeError_sout : (completeError e s).sout = s.sout := rfl
@[simp] theorem completeError_msglen : (completeError e s).msglen = s.msglen := rfl
@[simp] theorem completeError_rk : (completeError e s).rk = s.rk := rfl
@[simp] theorem completeError_v : (completeError e s).v = s.v := rfl
@[simp] theorem completeError_b : (completeError e s).b = s.b := rfl
@[simp] theorem completeError_w : (completeError e s).w = s.w := rfl
@[simp] theorem completeError_wp : (completeError e s).wp = s.wp := rfl
@[simp] theorem completeError_msg : (completeError e s).msg = s.msg := rfl

end

section
variable (c : Word) (s : State)

@[simp] theorem issue_config : (issue c s).config = s.config := rfl
@[simp] theorem issue_events : (issue c s).events = s.events := rfl
@[simp] theorem issue_rdata : (issue c s).rdata = s.rdata := rfl
@[simp] theorem issue_cmd : (issue c s).cmd = c := rfl
@[simp] theorem issue_pending : (issue c s).pending = some c := rfl
@[simp] theorem issue_status : (issue c s).status = s.status.issued := rfl
@[simp] theorem issue_key : (issue c s).key = s.key := rfl
@[simp] theorem issue_din : (issue c s).din = s.din := rfl
@[simp] theorem issue_dout : (issue c s).dout = s.dout := rfl
@[simp] theorem issue_x : (issue c s).x = s.x := rfl
@[simp] theorem issue_sin : (issue c s).sin = s.sin := rfl
@[simp] theorem issue_sout : (issue c s).sout = s.sout := rfl
@[simp] theorem issue_msglen : (issue c s).msglen = s.msglen := rfl
@[simp] theorem issue_rk : (issue c s).rk = s.rk := rfl
@[simp] theorem issue_v : (issue c s).v = s.v := rfl
@[simp] theorem issue_b : (issue c s).b = s.b := rfl
@[simp] theorem issue_w : (issue c s).w = s.w := rfl
@[simp] theorem issue_wp : (issue c s).wp = s.wp := rfl
@[simp] theorem issue_msg : (issue c s).msg = s.msg := rfl

end

section
variable (s : State)

@[simp] theorem engineNext_config : (engineNext s).config = s.config := rfl
@[simp] theorem engineNext_events : (engineNext s).events = .engine :: s.events := rfl
@[simp] theorem engineNext_rdata : (engineNext s).rdata = s.rdata := rfl
@[simp] theorem engineNext_cmd : (engineNext s).cmd = s.cmd := rfl
@[simp] theorem engineNext_pending : (engineNext s).pending = s.pending := rfl
@[simp] theorem engineNext_status : (engineNext s).status = s.status := rfl
@[simp] theorem engineNext_key : (engineNext s).key = s.key := rfl
@[simp] theorem engineNext_din : (engineNext s).din = s.din := rfl
@[simp] theorem engineNext_dout : (engineNext s).dout = s.dout := rfl
@[simp] theorem engineNext_x : (engineNext s).x = s.x := rfl
@[simp] theorem engineNext_sin : (engineNext s).sin = s.sin := rfl
@[simp] theorem engineNext_sout : (engineNext s).sout = s.sout := rfl
@[simp] theorem engineNext_msglen : (engineNext s).msglen = s.msglen := rfl
@[simp] theorem engineNext_rk : (engineNext s).rk = s.rk := rfl
@[simp] theorem engineNext_v : (engineNext s).v = s.v := rfl
@[simp] theorem engineNext_b : (engineNext s).b = s.b := rfl
@[simp] theorem engineNext_w : (engineNext s).w = s.w := rfl
@[simp] theorem engineNext_wp : (engineNext s).wp = s.wp := rfl
@[simp] theorem engineNext_msg : (engineNext s).msg = s.msg := rfl

end

section
variable (s : State)

@[simp] theorem takeReset_config : (takeReset s).config = s.config := rfl
@[simp] theorem takeReset_events : (takeReset s).events = s.events := rfl
@[simp] theorem takeReset_rdata : (takeReset s).rdata = none := rfl
@[simp] theorem takeReset_cmd : (takeReset s).cmd = 0 := rfl
@[simp] theorem takeReset_pending : (takeReset s).pending = none := rfl
@[simp] theorem takeReset_status : (takeReset s).status = .reset := rfl
@[simp] theorem takeReset_key : (takeReset s).key = zeroBlock := rfl
@[simp] theorem takeReset_din : (takeReset s).din = zeroBlock := rfl
@[simp] theorem takeReset_dout : (takeReset s).dout = zeroBlock := rfl
@[simp] theorem takeReset_x : (takeReset s).x = zeroBlock := rfl
@[simp] theorem takeReset_sin : (takeReset s).sin = 0 := rfl
@[simp] theorem takeReset_sout : (takeReset s).sout = 0 := rfl
@[simp] theorem takeReset_msglen : (takeReset s).msglen = 0 := rfl
@[simp] theorem takeReset_rk : (takeReset s).rk = Vector.replicate 32 0 := rfl
@[simp] theorem takeReset_v : (takeReset s).v = Vector.replicate 8 0 := rfl
@[simp] theorem takeReset_b : (takeReset s).b = Vector.replicate 16 0 := rfl
@[simp] theorem takeReset_w : (takeReset s).w = Vector.replicate 68 0 := rfl
@[simp] theorem takeReset_wp : (takeReset s).wp = Vector.replicate 64 0 := rfl
@[simp] theorem takeReset_msg : (takeReset s).msg = [] := rfl

end

section
variable (st : Status)

@[simp] theorem Status.completed_busy : (st.completed).busy = false := rfl
@[simp] theorem Status.completed_done : (st.completed).done = true := rfl
@[simp] theorem Status.completed_err : (st.completed).err = st.err := rfl
@[simp] theorem Status.completed_rkv : (st.completed).rkv = st.rkv := rfl
@[simp] theorem Status.completed_errcode : (st.completed).errcode = st.errcode := rfl

end

section
variable (st : Status)

@[simp] theorem Status.issued_busy : (st.issued).busy = true := rfl
@[simp] theorem Status.issued_done : (st.issued).done = false := rfl
@[simp] theorem Status.issued_err : (st.issued).err = false := rfl
@[simp] theorem Status.issued_rkv : (st.issued).rkv = st.rkv := rfl
@[simp] theorem Status.issued_errcode : (st.issued).errcode = 0 := rfl

end

section
variable (e : ErrCode) (st : Status)

@[simp] theorem Status.failed_busy : (st.failed e).busy = st.busy := rfl
@[simp] theorem Status.failed_done : (st.failed e).done = st.done := rfl
@[simp] theorem Status.failed_err : (st.failed e).err = true := rfl
@[simp] theorem Status.failed_rkv : (st.failed e).rkv = st.rkv := rfl
@[simp] theorem Status.failed_errcode : (st.failed e).errcode = e.code := rfl

end

end Sys2Proof.Machine
end

