-- ==== Sys2Proof/Laws/Ops.lean ====
section
/-! SUPPORT. What each shared operation can do, said once: how a command's cycle, a host transaction and a step end. -/

namespace Sys2Proof.Machine

/-- A command's cycle ends in an error completion, or in the completion of what `perform` left. -/
theorem runDecoded_next {d : Decoded} {perform : State → Result} {s t : State} (h : runDecoded d perform s = .next t) :
    (∃ e, check d s = some e ∧ t = completeError e s) ∨
      (check d s = none ∧ ∃ u, perform s = .next u ∧ t = complete u) := by
  unfold runDecoded at h
  split at h
  · next e he => exact .inl ⟨e, he, by simpa using h.symm⟩
  · next hc =>
    split at h
    · next u hu => exact .inr ⟨hc, u, hu, by simpa using h.symm⟩
    · cases h
    · cases h

theorem runDecoded_error {d : Decoded} {perform : State → Result} {s : State} {e : ErrCode} (h : check d s = some e) :
    runDecoded d perform s = .next (completeError e s) := by simp [runDecoded, h]

theorem runDecoded_pass {d : Decoded} {perform : State → Result} {s u : State} (h : check d s = none)
    (hp : perform s = .next u) : runDecoded d perform s = .next (complete u) := by simp [runDecoded, h, hp]

theorem runDecoded_fault {d : Decoded} {perform : State → Result} {s : State} {r : Fault} (h : check d s = none)
    (hp : perform s = .fault r) : runDecoded d perform s = .fault r := by simp [runDecoded, h, hp]

/-- The cycle of a command that only writes registers always completes. -/
theorem runCommand_eq (i : Instr) (perform : State → State) (s : State) :
    runCommand i perform s =
      .next (match check (.command i) s with
        | some e => completeError e s
        | none => complete (perform s)) := by
  unfold runCommand runDecoded
  split <;> simp_all

/-- The validation of a command, condition by condition (60_exceptions.md R312). -/
theorem check_command_none {i : Instr} {s : State} :
    check (.command i) s = none ↔
      (needsKey i = true → s.status.rkv = true) ∧ (readsMessage i = true → s.msglen.toNat ≤ s.config.msgBytes) ∧
        idxOutOfRange i s = false := by
  simp only [check]
  split_ifs <;> simp_all

/-- How a host read with its place found ends. -/
theorem hostRead_next {s t : State} {p : Place} (h : hostRead s p = .next t) : ∃ v, t = { s with rdata := some v } := by
  cases p with
  | reg r => exact ⟨_, by simpa [hostRead] using h.symm⟩
  | reserved => exact ⟨_, by simpa [hostRead] using h.symm⟩
  | msg a =>
    simp only [hostRead] at h
    split at h
    · exact ⟨_, by simpa using h.symm⟩
    · cases h

/-- How a host transaction ends: a read leaves all but `rdata`; a write finds no command in flight. -/
theorem hostStep_next {tr : Transaction} {s t : State} (h : hostStep tr s = .next t) :
    (∃ off v, tr = .read off 4 ∧ off.toNat % 4 = 0 ∧ t = { s with rdata := some v }) ∨
      (∃ off v, tr = .write off 4 v ∧ off.toNat % 4 = 0 ∧ s.pending = none ∧
        hostWrite s v (locate s.config off) = .next t) := by
  cases tr with
  | read off size =>
    simp only [hostStep] at h
    split at h
    · cases h
    · next ha =>
      simp only [acceptedAccess, Bool.not_eq_true', Bool.not_eq_false, Bool.and_eq_true, beq_iff_eq] at ha
      obtain ⟨rfl, ha⟩ := ha
      split at h
      · cases h
      · obtain ⟨v, rfl⟩ := hostRead_next h
        exact .inl ⟨off, v, rfl, ha, rfl⟩
  | write off size v =>
    simp only [hostStep] at h
    split at h
    · cases h
    · next ha =>
      simp only [acceptedAccess, Bool.not_eq_true', Bool.not_eq_false, Bool.and_eq_true, beq_iff_eq] at ha
      obtain ⟨rfl, ha⟩ := ha
      split at h
      · cases h
      · next hp => exact .inr ⟨off, v, rfl, ha, by simpa using hp, h⟩

/-- Every command's meaning is the cycle of 40_command_cycle.md R133 around its own `perform`. -/
theorem exec_is_runDecoded (i : Instr) : ∃ perform : State → Result, ∀ s, exec i s = runDecoded (.command i) perform s := by
  cases i <;>
    simp only [exec, execNop, execSm4Sbox, execSm4Tau, execSm4L, execSm4Lk, execSm4T, execSm4Tk, execSm4Round,
      execSm4Keyexp, execSm4Enc, execSm4Dec, execSm4Final, execSm3Init, execSm3P0, execSm3P1, execSm3Padblk,
      execSm3Expand, execSm3Compress, execSm3Digest, runCommand] <;>
    exact ⟨_, fun _ => rfl⟩

/-- A command that fails its check completes with that error, whichever command it is. -/
theorem exec_error {i : Instr} {s : State} {e : ErrCode} (h : check (.command i) s = some e) :
    exec i s = .next (completeError e s) := by
  obtain ⟨perform, hp⟩ := exec_is_runDecoded i
  rw [hp, runDecoded_error h]

/-- A run goes on from the next state. -/
theorem run_next {M : Host.Core} {k : Nat} {s t : M.State} (h : M.step s = .next t) : M.run (k + 1) s = M.run k t := by
  simp only [Host.Core.run, h]

/-- A run stops at a fault. -/
theorem run_fault {M : Host.Core} {k : Nat} {s : M.State} {r : M.Fault} (h : M.step s = .fault r) :
    M.run (k + 1) s = .fault r := by
  simp only [Host.Core.run, h]

/-- How a step ends: by the oldest event, or by the engine where none is left. -/
theorem step_eq (s : State) :
    step s = match s.events with
      | [] => engineStep s
      | e :: rest => takeEvent e { s with events := rest } := rfl

end Sys2Proof.Machine
end

