-- ==== Sys2Proof/Laws/PerInstr.lean ====
section
/-! SUPPORT. Statements made for every command, one lemma per constructor (LAWS.json "per_instruction"). -/

namespace Sys2Proof.Laws.RowMatch

/-- The row of spec/opcode_table.json with the command's mnemonic accepts the command's word. -/
def Statement (i : Instr) : Prop := ∃ r ∈ opcodeTable, r.mnemonic = i.mnemonic ∧ r.accepts (encode i) = true

/-- The low byte of an encoded word is the OP of its command. -/
theorem encode_and_opMask (i : Instr) : encode i &&& 0x000000FF = i.opcode.setWidth 32 := by
  apply BitVec.eq_of_toNat_eq
  have h := i.opcode.isLt
  simp only [encode, BitVec.toNat_and, BitVec.toNat_append, BitVec.toNat_setWidth, BitVec.toNat_ofNat]
  rw [← Nat.shiftLeft_add_eq_or_of_lt h, show BitVec.toNat (0x000000FF : Word) = 2 ^ 8 - 1 from rfl, Nat.and_two_pow_sub_one_eq_mod]
  simp only [Nat.shiftLeft_eq]
  omega

theorem nop : Statement .nop := by unfold Statement; decide

theorem sm4Sbox : Statement .sm4Sbox := by unfold Statement; decide

theorem sm4Tau : Statement .sm4Tau := by unfold Statement; decide

theorem sm4L : Statement .sm4L := by unfold Statement; decide

theorem sm4Lk : Statement .sm4Lk := by unfold Statement; decide

theorem sm4T : Statement .sm4T := by unfold Statement; decide

theorem sm4Tk : Statement .sm4Tk := by unfold Statement; decide

theorem sm4Round (idx : Nat) : Statement (.sm4Round idx) :=
  ⟨⟨"SM4_ROUND", (Instr.sm4Round 0).opcode.setWidth 32, 0x000000FF⟩, by decide, rfl, by
    simp only [OpcodeRow.accepts, encode_and_opMask, beq_iff_eq]; rfl⟩

theorem sm4Keyexp : Statement .sm4Keyexp := by unfold Statement; decide

theorem sm4Enc : Statement .sm4Enc := by unfold Statement; decide

theorem sm4Dec : Statement .sm4Dec := by unfold Statement; decide

theorem sm4Final : Statement .sm4Final := by unfold Statement; decide

theorem sm3Init : Statement .sm3Init := by unfold Statement; decide

theorem sm3P0 : Statement .sm3P0 := by unfold Statement; decide

theorem sm3P1 : Statement .sm3P1 := by unfold Statement; decide

theorem sm3Padblk (idx : Nat) : Statement (.sm3Padblk idx) :=
  ⟨⟨"SM3_PADBLK", (Instr.sm3Padblk 0).opcode.setWidth 32, 0x000000FF⟩, by decide, rfl, by
    simp only [OpcodeRow.accepts, encode_and_opMask, beq_iff_eq]; rfl⟩

theorem sm3Expand : Statement .sm3Expand := by unfold Statement; decide

theorem sm3Compress : Statement .sm3Compress := by unfold Statement; decide

theorem sm3Digest : Statement .sm3Digest := by unfold Statement; decide

end Sys2Proof.Laws.RowMatch
end

