-- ==== Sys2Proof/Laws/Registers.lean ====
section
/-! SUPPORT. Laws of the register map: the bounds of the parameters and offsets, and what stands at each register's offset. -/

namespace Sys2Proof.Machine

/-- "MSG_BYTES: a multiple of 64 with 64 <= MSG_BYTES <= 65536" (00_scope.md R8), for every configuration. -/
theorem msgBytes_bounds (c : Config) : c.msgBytes % 64 = 0 ∧ 64 ≤ c.msgBytes ∧ c.msgBytes ≤ 65536 := by
  have := c.msgUnits.isLt
  simp only [Config.msgBytes]
  omega

/-- Every register stands below 0x500, at a multiple of 4 (10_state.md R30). -/
theorem offset_lt (r : Reg) : r.offset < 0x500 ∧ r.offset % 4 = 0 := by
  cases r <;> constructor <;> simp [Reg.offset] <;> omega

/-- A file has no element past its end. -/
theorem elementAt_none {base n off : Nat} (h : base + 4 * n ≤ off) : elementAt base n off = none := by
  unfold elementAt
  rw [dif_neg]
  omega

/-- No register stands from 0x500 on (20_memory.md R71). -/
theorem regAt_none_of_le {off : Nat} (h : 0x500 ≤ off) : regAt off = none := by
  unfold regAt
  rw [if_neg (by omega), if_neg (by omega), if_neg (by omega), if_neg (by omega), if_neg (by omega), if_neg (by omega)]
  rw [elementAt_none (base := 0x010) (n := 4) (by omega), elementAt_none (base := 0x020) (n := 4) (by omega),
    elementAt_none (base := 0x030) (n := 4) (by omega), elementAt_none (base := 0x040) (n := 4) (by omega),
    elementAt_none (base := 0x080) (n := 32) (by omega), elementAt_none (base := 0x100) (n := 8) (by omega),
    elementAt_none (base := 0x140) (n := 16) (by omega), elementAt_none (base := 0x200) (n := 68) (by omega),
    elementAt_none (base := 0x400) (n := 64) (by omega)]
  rfl

/-- The map finds each register of the first half of the map at its offset. -/
theorem regAt_offset_low :
    (∀ i : Fin 4, regAt (Reg.key i).offset = some (.key i)) ∧ (∀ i : Fin 4, regAt (Reg.din i).offset = some (.din i)) ∧
    (∀ i : Fin 4, regAt (Reg.dout i).offset = some (.dout i)) ∧ (∀ i : Fin 4, regAt (Reg.x i).offset = some (.x i)) ∧
    (∀ i : Fin 32, regAt (Reg.rk i).offset = some (.rk i)) := by
  decide +kernel

/-- The map finds each register of the second half of the map at its offset. -/
theorem regAt_offset_high :
    (∀ i : Fin 8, regAt (Reg.v i).offset = some (.v i)) ∧ (∀ i : Fin 16, regAt (Reg.b i).offset = some (.b i)) ∧
    (∀ i : Fin 68, regAt (Reg.w i).offset = some (.w i)) ∧ (∀ i : Fin 64, regAt (Reg.wp i).offset = some (.wp i)) := by
  decide +kernel

/-- The map finds every register at its offset. -/
theorem regAt_offset (r : Reg) : regAt r.offset = some r := by
  obtain ⟨hk, hi, ho, hx, hr⟩ := regAt_offset_low
  obtain ⟨hv, hb, hw, hp⟩ := regAt_offset_high
  cases r <;> first | rfl | apply hk | apply hi | apply ho | apply hx | apply hr | apply hv | apply hb | apply hw | apply hp

/-- What a transaction at a register's offset finds. -/
theorem locate_of_offset {c : Config} {off : BitVec 17} {r : Reg} (h : off.toNat = r.offset) : locate c off = .reg r := by
  simp [locate, h, regAt_offset]

/-- What a transaction inside the MSG window finds (20_memory.md R76). -/
theorem locate_of_msg {c : Config} {off : BitVec 17} {a : Nat} (h : off.toNat = msgBase + a) (ha : a < c.msgBytes) :
    locate c off = .msg a := by
  have hn : regAt (msgBase + a) = none := regAt_none_of_le (by simp only [msgBase]; omega)
  simp [locate, h, hn, ha]

/-- What a supported read of a register answers while no command is in flight. -/
theorem hostStep_read_reg {s : State} {off : BitVec 17} {r : Reg} (hp : s.pending = none) (h : off.toNat = r.offset) :
    hostStep (.read off 4) s = .next { s with rdata := some (readReg s r) } := by
  simp [hostStep, acceptedAccess, h, (offset_lt r).2, hp, locate_of_offset h, hostRead]

/-- What a supported write to a register does while no command is in flight. -/
theorem hostStep_write_reg {s : State} {off : BitVec 17} {r : Reg} {v : Word} (hp : s.pending = none)
    (h : off.toNat = r.offset) : hostStep (.write off 4 v) s = .next (writeReg s r v) := by
  simp [hostStep, acceptedAccess, h, (offset_lt r).2, hp, locate_of_offset h, hostWrite]

end Sys2Proof.Machine
end

