-- ==== Sys2Proof/Machine/Script.lean ====
section
/-! DEFINITION. Host scripts (30_encoding.md R107, R108): each line's expansion into moves of the host and the engine. -/

namespace Sys2Proof.Machine

/-- What a script line names (R107): a register, `MSG+a`, or a raw offset `@off`. -/
inductive Target where
  | reg (r : Reg)
  | msg (a : Nat)
  | raw (off : BitVec 17)
  deriving DecidableEq, Repr

/-- The offset a target names (R107). `MSG+a` names 0x10000 + a; where that does not fit the 17-bit offset (a >= 0x10000), the
spec does not say what it names. DESIGN CHOICE (log 10): it is taken modulo 2^17. -/
def Target.offset : Target → BitVec 17
  | .reg r => BitVec.ofNat 17 r.offset
  | .msg a => BitVec.ofNat 17 (msgBase + a)
  | .raw off => off

/-- The register files of RDBLK and WRBLK (R108). -/
inductive RegFile where
  | key
  | din
  | dout
  | x
  | rk
  | v
  | b
  | w
  | wp
  deriving DecidableEq, Repr

/-- The elements of a file in order. -/
def RegFile.elements : RegFile → List Reg
  | .key => (List.finRange 4).map .key
  | .din => (List.finRange 4).map .din
  | .dout => (List.finRange 4).map .dout
  | .x => (List.finRange 4).map .x
  | .rk => (List.finRange 32).map .rk
  | .v => (List.finRange 8).map .v
  | .b => (List.finRange 16).map .b
  | .w => (List.finRange 68).map .w
  | .wp => (List.finRange 64).map .wp

/-- A line of a host script. The `== value` of a read is an expectation, not a hardware action (R107), and is left out. -/
inductive ScriptLine where
  /-- `WR reg, imm32`. -/
  | wr (t : Target) (val : Word)
  /-- `RD reg`. -/
  | rd (t : Target)
  /-- `CMD MNEMONIC` and `CMD MNEMONIC, idx`. -/
  | cmd (i : Instr)
  /-- `WAIT`, a poll loop that reads BUSY = 1 `polls` times before the command completes (log 8). -/
  | wait (polls : Nat)
  /-- `WRBLK file, hex`, the words in order. -/
  | wrblk (f : RegFile) (words : List Word)
  /-- `RDBLK file`. -/
  | rdblk (f : RegFile)
  /-- `WRMSG bytes`. -/
  | wrmsg (bytes : List Byte)
  deriving DecidableEq, Repr

/-- `WR`: one write transaction of a whole word. -/
def wrEvent (t : Target) (val : Word) : Event := .host (.write t.offset 4 val)

/-- `RD`: one read transaction of a whole word. -/
def rdEvent (t : Target) : Event := .host (.read t.offset 4)

/-- The k-th word of WRMSG: bytes 4k to 4k+3, those at positions >= n taken as 0x00 (R108). -/
def msgWord (bytes : List Byte) (k : Nat) : Word :=
  packBytes (bytes.getD (4 * k) 0) (bytes.getD (4 * k + 1) 0) (bytes.getD (4 * k + 2) 0) (bytes.getD (4 * k + 3) 0)

/-- The expansion of a script line (R107, R108). DESIGN CHOICE for the lines that R108 gives no expansion (log 11): WRBLK takes
any file, and writes word i to element i for as many of each as there are, the excess of either dropped; a command's index is
taken modulo 2^24; and the length of WRMSG is taken modulo 2^32, its words' offsets as log 10 says. -/
def ScriptLine.expand : ScriptLine → List Event
  | .wr t val => [wrEvent t val]
  | .rd t => [rdEvent t]
  | .cmd i => [wrEvent (.reg .cmd) (encode i)]
  | .wait polls => List.replicate polls (rdEvent (.reg .status)) ++ [.engine, rdEvent (.reg .status)]
  | .wrblk f words => List.zipWith (fun r val => wrEvent (.reg r) val) f.elements words
  | .rdblk f => f.elements.map fun r => rdEvent (.reg r)
  | .wrmsg bytes =>
    (List.range ((bytes.length + 3) / 4)).map (fun k => wrEvent (.msg (4 * k)) (msgWord bytes k)) ++
      [wrEvent (.reg .msglen) (BitVec.ofNat 32 bytes.length)]

/-- A whole script as the events it puts before the machine. When the engine moves between a CMD line and its WAIT is free
(40_command_cycle.md R130; 60_exceptions.md R317). DESIGN CHOICE (log 8): in an expanded script it moves inside WAIT only, and
after the last line (log 2), so the lines between CMD and WAIT find the command in flight. The other orders are other lists of
events. -/
def expandScript (script : List ScriptLine) : List Event := script.flatMap ScriptLine.expand

end Sys2Proof.Machine
end

