-- ==== Sys2Proof/Tests/Slice0.lean ====
section
/-! SUPPORT. The model's own tests: expected values are those of spec/95_test_vectors.md (V10 to V32) and of the rules' own
examples, and command words are written out from 30_encoding.md; then a witness for the hypotheses of each obligation. -/

namespace Sys2Proof.Tests

open Sys2Proof.Machine Sys2Proof.Claims

/-! ## Helpers -/

/-- The state a step leaves, if it leaves one. -/
def after : Result → Option State
  | .next t => some t
  | .fault _ => none
  | .refused _ => none

/-- The fault a step ends in, if it ends in one. -/
def faultOf : Result → Option Fault
  | .next _ => none
  | .fault r => some r
  | .refused _ => none

/-- The STATUS word a step leaves. -/
def statusAfter (r : Result) : Option Word := (after r).map fun t => statusWord t.status

/-- The reset state with an operand in SIN. -/
def withSin (x : Word) : State := { State.reset with sin := x }

/-- SOUT after a scalar command on x. -/
def soutOf (i : Instr) (x : Word) : Option Word := (after (exec i (withSin x))).map State.sout

/-- The reset state after SM4_KEYEXP of a key, with a block in DIN and X. -/
def keyed (key block : Block128) : State :=
  { State.reset with key := key, rk := keyExpand key, status := { Status.reset with rkv := true }, din := block, x := block }

/-- The state a CMD write of c leaves, the engine next. -/
def inFlight (c : Word) (s : State) : State := engineNext (issue c s)

/-- The reset state with a message in MSG, from byte 0, and MSGLEN. -/
def withMsg (bytes : List Byte) : State :=
  { State.reset with msg := bytes.zipIdx.map fun p => (p.2, p.1), msglen := BitVec.ofNat 32 bytes.length }

/-- "abc". -/
def abc : State := withMsg [0x61, 0x62, 0x63]

/-- The reset state of the smallest core, MSG_BYTES = 64. -/
def smallest : State := .resetOf { msgUnits := 0 }

/-- The reset state of the largest core, MSG_BYTES = 65536. -/
def largest : State := .resetOf { msgUnits := 1023 }

/-- The reset state with one event to come. -/
def facing (e : Event) (s : State) : State := { s with events := [e] }

/-! ## Well-formedness: the one check, on each form it concerns -/

theorem test_wf_refuses_round_idx : (Instr.sm4Round (2 ^ 24)).wf = false := by decide

theorem test_wf_refuses_padblk_idx : (Instr.sm3Padblk (2 ^ 24)).wf = false := by decide

theorem test_wf_takes_largest_idx : (Instr.sm4Round (2 ^ 24 - 1)).wf = true ∧ (Instr.sm3Padblk (2 ^ 24 - 1)).wf = true := by
  decide

/-! ## Decoding: IDX in bits 31:8 and OP in bits 7:0, the words written out from 30_encoding.md R100 and R103 -/

theorem test_decode_nop : decode 0b000000000000000000000000_00000000 = .command .nop := by decide

theorem test_decode_sm4_scalars :
    decode 0b000000000000000000000000_00000001 = .command .sm4Sbox ∧
    decode 0b000000000000000000000000_00000010 = .command .sm4Tau ∧
    decode 0b000000000000000000000000_00000011 = .command .sm4L ∧
    decode 0b000000000000000000000000_00000100 = .command .sm4Lk ∧
    decode 0b000000000000000000000000_00000101 = .command .sm4T ∧
    decode 0b000000000000000000000000_00000110 = .command .sm4Tk := by decide

theorem test_decode_sm4_round :
    decode 0b000000000000000000000101_00000111 = .command (.sm4Round 5) ∧
    decode 0b100000000000000000000001_00000111 = .command (.sm4Round 8388609) := by decide

theorem test_decode_sm4_blocks :
    decode 0b000000000000000000000000_00001000 = .command .sm4Keyexp ∧
    decode 0b000000000000000000000000_00001001 = .command .sm4Enc ∧
    decode 0b000000000000000000000000_00001010 = .command .sm4Dec ∧
    decode 0b000000000000000000000000_00001011 = .command .sm4Final := by decide

theorem test_decode_sm3 :
    decode 0b000000000000000000000000_00010000 = .command .sm3Init ∧
    decode 0b000000000000000000000000_00010001 = .command .sm3P0 ∧
    decode 0b000000000000000000000000_00010010 = .command .sm3P1 ∧
    decode 0b000000000001001110001000_00010011 = .command (.sm3Padblk 5000) ∧
    decode 0b000000000000000000000000_00010100 = .command .sm3Expand ∧
    decode 0b000000000000000000000000_00010101 = .command .sm3Compress ∧
    decode 0b000000000000000000000000_00010110 = .command .sm3Digest := by decide

/-- The ILLEGAL words of V30, by their reason (30_encoding.md R105). -/
theorem test_decode_illegal :
    decode 0x00000100 = .illegal (.strayIdx 0x00 1) ∧ decode 0x00000109 = .illegal (.strayIdx 0x09 1) ∧
    decode 0x0000000c = .illegal (.reservedOp 0x0c) ∧ decode 0x0000000f = .illegal (.reservedOp 0x0f) ∧
    decode 0x00000017 = .illegal (.reservedOp 0x17) ∧ decode 0xffffffff = .illegal (.reservedOp 0xff) := by decide

/-- Both ways through the table's numbering: a row's word runs as the first command after reset. -/
theorem test_table_word_runs :
    decodeTableWord 32 0x00000016 = some .sm3Digest ∧ decodeTableWord 32 0x00000109 = none ∧
    statusAfter (step (State.reset.withFetchWord 32 0x00000000)) = some 0x00000002 := by decide

/-! ## SM4 commands -/

/-- V10: only SIN[7:0] is used. -/
theorem test_sm4_sbox : soutOf .sm4Sbox 0x123456ef = some 0x00000084 ∧ soutOf .sm4Sbox 0x00000010 = some 0x0000002b := by
  decide

theorem test_sm4_tau : soutOf .sm4Tau 0x01234567 = some 0x90f473a2 ∧ soutOf .sm4Tau 0x80000000 = some 0xead6d6d6 := by decide

theorem test_sm4_l : soutOf .sm4L 0x01234567 = some 0xfa26eb37 ∧ soutOf .sm4L 0x80000000 = some 0x80820202 := by decide

theorem test_sm4_lk : soutOf .sm4Lk 0x01234567 = some 0xda0f34e1 ∧ soutOf .sm4Lk 0x80000000 = some 0x80401000 := by decide

theorem test_sm4_t : soutOf .sm4T 0x01234567 = some 0x6ef180c9 ∧ soutOf .sm4T 0x80000000 = some 0x9767abab := by decide

theorem test_sm4_tk : soutOf .sm4Tk 0x01234567 = some 0xcfc85b85 ∧ soutOf .sm4Tk 0x80000000 = some 0x5b7960e7 := by decide

/-- V12: the new word of round 0 is X_4. -/
theorem test_sm4_round :
    (after (exec (.sm4Round 0) (keyed katBlock katBlock))).map State.x =
      some ⟨0x89abcdef, 0xfedcba98, 0x76543210, 0x27fad345⟩ := by decide +kernel

/-- V11: the round keys of the KAT key, first and last. -/
theorem test_sm4_keyexp :
    (after (exec .sm4Keyexp { State.reset with key := katBlock })).map (fun t => (t.rk[0], t.rk[31], t.status.rkv)) =
      some (0xf12186f9, 0x9124a012, true) := by decide +kernel

/-- V1, V12. -/
theorem test_sm4_enc :
    (after (exec .sm4Enc (keyed katBlock katBlock))).map (fun t => (t.x, t.dout)) =
      some (⟨0x536e4246, 0x86b3e94f, 0xd206965e, 0x681edf34⟩, ⟨0x681edf34, 0xd206965e, 0x86b3e94f, 0x536e4246⟩) := by
  decide +kernel

/-- V13: the zero block under the zero key, decrypted. -/
theorem test_sm4_dec :
    (after (exec .sm4Dec (keyed zeroBlock zeroBlock))).map State.dout =
      some ⟨0x9e83015a, 0xe25f6278, 0x3225354e, 0x126ecc6e⟩ := by decide +kernel

/-- 42_sm4_commands.md R210. -/
theorem test_sm4_final :
    (after (exec .sm4Final { State.reset with x := ⟨0x536e4246, 0x86b3e94f, 0xd206965e, 0x681edf34⟩ })).map State.dout =
      some ⟨0x681edf34, 0xd206965e, 0x86b3e94f, 0x536e4246⟩ := by decide

/-! ## SM3 commands -/

/-- V4. -/
theorem test_sm3_init :
    (after (exec .sm3Init State.reset)).map State.v =
      some #v[0x7380166f, 0x4914b2b9, 0x172442d7, 0xda8a0600, 0xa96f30bc, 0x163138aa, 0xe38dee4d, 0xb0fb0e4e] := by decide

theorem test_sm3_p0 : soutOf .sm3P0 0x01234567 = some 0xcd678923 ∧ soutOf .sm3P0 0x80000000 = some 0x80010100 := by decide

theorem test_sm3_p1 : soutOf .sm3P1 0x01234567 = some 0x10105454 ∧ soutOf .sm3P1 0x80000000 = some 0x80404000 := by decide

/-- V21: "abc", block 0. -/
theorem test_sm3_padblk :
    (after (exec (.sm3Padblk 0) abc)).map State.b = some #v[0x61626380, 0, 0, 0, 0, 0, 0, 0, 0, 0, 0, 0, 0, 0, 0, 0x00000018] := by
  decide +kernel

/-- V32: block 1 of 56 bytes holds no message byte, so it needs none written; block 0 does. -/
theorem test_sm3_padblk_unwritten :
    (after (exec (.sm3Padblk 1) { State.reset with msglen := 56 })).map State.b =
      some #v[0, 0, 0, 0, 0, 0, 0, 0, 0, 0, 0, 0, 0, 0, 0, 0x000001c0] ∧
    faultOf (exec (.sm3Padblk 0) { State.reset with msglen := 56 }) = some .unwrittenMsg := by decide +kernel

/-- V22: B = (1, 0, ..., 0). -/
theorem test_sm3_expand :
    (after (exec .sm3Expand { State.reset with b := #v[1, 0, 0, 0, 0, 0, 0, 0, 0, 0, 0, 0, 0, 0, 0, 0] })).map
      (fun t => (t.w[16], t.w[19], t.w[67], t.wp[0])) = some (0x00808001, 0x2000a000, 0xe12421aa, 0x00000001) := by
  decide +kernel

/-- V24: the "abc" block compressed from V = 0. -/
theorem test_sm3_compress :
    (after (exec .sm3Compress { State.reset with w := expandW abcBlock, wp := expandWP (expandW abcBlock) })).map State.v =
      some #v[0x493b4001, 0xf9418b45, 0xe34cac0d, 0xf066e833, 0x5ae0d4ce, 0x62dbe946, 0x65224274, 0xb50771ac] := by
  decide +kernel

/-- V3, corrected as 90_conflicts.md C2 says. -/
theorem test_sm3_digest :
    (after (exec .sm3Digest abc)).map State.v =
      some #v[0x66c7f0f4, 0x62eeedd9, 0xd1f2d46b, 0xdc10e4e2, 0x4167c487, 0x5cf2f7a2, 0x297da02b, 0x8f4ba8e0] := by
  decide +kernel

/-- V32: bytes 0 to 2 were never written. -/
theorem test_sm3_digest_unwritten : faultOf (exec .sm3Digest { State.reset with msglen := 3 }) = some .unwrittenMsg := by
  decide +kernel

/-! ## STATUS, errors and the host port (V31, V32) -/

theorem test_error_codes :
    statusAfter (step (inFlight 0x00000009 .reset)) = some 0x00000206 ∧
    statusAfter (step (inFlight 0x00002007 .reset)) = some 0x00000206 ∧
    statusAfter (step (inFlight 0x00002007 (keyed zeroBlock zeroBlock))) = some 0x0000030e ∧
    statusAfter (step (inFlight 0x00000109 (keyed zeroBlock zeroBlock))) = some 0x0000010e := by decide +kernel

theorem test_error_codes_of_messages :
    statusAfter (step (inFlight 0x00000016 { State.reset with msglen := 0x1001 })) = some 0x00000406 ∧
    statusAfter (step (inFlight 0x00138813 { State.reset with msglen := 0x1001 })) = some 0x00000406 ∧
    statusAfter (step (inFlight 0x00000113 .reset)) = some 0x00000306 := by decide +kernel

/-- `WR CMD, 0x00000008`: BUSY before the engine step, DONE and RKV after it; then a KEY2 write clears RKV. -/
theorem test_status_sequence :
    statusAfter (step (facing (wr 0x000 0x00000008) .reset)) = some 0x00000001 ∧
    statusAfter (step (inFlight 0x00000008 .reset)) = some 0x0000000a ∧
    statusAfter (step (facing (wr 0x018 0) { State.reset with status := ⟨false, true, false, true, 0⟩ })) =
      some 0x00000002 := by decide +kernel

theorem test_hazards :
    faultOf (step (facing (wr 0x000 0) (issue 0 .reset))) = some .hazardBusy ∧
    faultOf (step (facing (rd 0x030) (issue 0 .reset))) = some .hazardBusy ∧
    (after (step (facing (rd 0x004) (issue 0 .reset)))).map State.rdata = some (some 0x00000001) := by decide

theorem test_unsupported_access :
    faultOf (step (facing (rd 0x002) .reset)) = some .hostAccess ∧
    faultOf (step (facing (.host (.read 0x004 1)) .reset)) = some .hostAccess := by decide

theorem test_msg_window :
    faultOf (step (facing (rd 0x10000) .reset)) = some .unwrittenMsg ∧
    (after (step (facing (wr 0x10000 0x61626300) .reset))).map State.msg =
      some [(0, 0x61), (1, 0x62), (2, 0x63), (3, 0x00)] ∧
    (after (step (facing (rd 0x10FFC) { State.reset with msg := [(4092, 1), (4093, 2), (4094, 3), (4095, 4)] }))).map
      State.rdata = some (some 0x01020304) := by decide

/-- The first offset past the MSG window of a 4096-byte core is reserved. -/
theorem test_reserved_read : (after (step (facing (rd 0x11000) .reset))).map State.rdata = some (some 0) := by decide

/-- V21: NBLK for the largest MSGLEN. -/
theorem test_nblk : (after (step (facing (rd 0x064) { State.reset with msglen := 0xffffffff }))).map State.rdata =
    some (some 0x04000001) := by decide

theorem test_reset : (after (step (facing .reset { inFlight 9 abc with sout := 5 }))) = some State.reset := by decide

theorem test_reset_state : statusWord State.reset.status = 0 ∧ readReg State.reset .nblk = 1 ∧ State.reset.msg.wf := by decide

/-- R108: WRMSG "abc" is one padded word, then MSGLEN. -/
theorem test_script : expandScript [.wrmsg [0x61, 0x62, 0x63], .cmd .sm3Digest, .wait 1] =
    [wr 0x10000 0x61626300, wr 0x060 3, wr 0x000 0x16, rd 0x004, .engine, rd 0x004] := by decide +kernel

/-! ## Witnesses: for each obligation with hypotheses, a state and operands that meet them together, each clause at a boundary -/

theorem witness_DecodeOfEncode : (Instr.sm4Round 0xffffff).wf = true ∧ Instr.sm3Digest.wf = true := by decide

theorem witness_EncodeOfDecode : decode 0xffffff13 = .command (.sm3Padblk 0xffffff) ∧ decode 0x16 = .command .sm3Digest := by
  decide

theorem witness_DecodeFollowsTheOpcodeTable :
    (0xffffff07 : Word).extractLsb' 0 8 = 0x07 ∧ (0x00000013 : Word).extractLsb' 0 8 = 0x13 ∧ decode 0x00 = .command .nop := by
  decide

theorem witness_IllegalWord : ∃ (s : State) (c : Word) (why : IllegalReason), s.pending = some c ∧ decode c = .illegal why ∧
    (∃ rest, s.events = .engine :: rest) ∧ ∃ u : State, u.pending = some c ∧ u.events = [] :=
  ⟨inFlight 0x0c .reset, _, .reservedOp 0x0c, rfl, by decide, ⟨_, rfl⟩, issue 0x0c .reset, rfl, rfl⟩

theorem witness_StepPerforms : ∃ (s : State) (c : Word) (i : Instr), s.pending = some c ∧ decode c = .command i ∧
    (∃ rest, s.events = .engine :: rest) ∧ ∃ u : State, u.pending = some c ∧ u.events = [] :=
  ⟨inFlight 0x1f07 .reset, _, .sm4Round 31, rfl, by decide, ⟨_, rfl⟩, issue 0x1f07 .reset, rfl, rfl⟩

theorem witness_CmdWrite : ∃ s u : State, s.events = wr 0x000 0xffffffff :: [] ∧ s.pending = none ∧
    u.events = wr 0x000 0xffffffff :: [] ∧ u.pending ≠ none :=
  ⟨facing (wr 0 0xffffffff) .reset, facing (wr 0 0xffffffff) (issue 0 .reset), rfl, rfl, rfl, by decide⟩

/-- E_ILLEGAL, and E_NOKEY for each command that raises it, with an index that E_RANGE would refuse. -/
theorem witness_Errors_illegal_and_nokey :
    (inFlight 0x17 .reset).pending = some 0x17 ∧ decode 0x17 = .illegal (.reservedOp 0x17) ∧
    decode 0x09 = .command .sm4Enc ∧ decode 0x0a = .command .sm4Dec ∧ decode 0x2007 = .command (.sm4Round 32) ∧
    (inFlight 0x2007 .reset).events = .engine :: [] ∧ (inFlight 0x2007 .reset).status.rkv = false := by decide

/-- E_LEN one byte above MSG_BYTES. -/
theorem witness_Errors_len : ∃ s : State, s.pending = some 0x16 ∧ s.events = .engine :: [] ∧ decode 0x16 = .command .sm3Digest ∧
    s.config.msgBytes < s.msglen.toNat ∧ s.msglen.toNat = s.config.msgBytes + 1 :=
  ⟨inFlight 0x16 { smallest with msglen := 65 }, rfl, rfl, by decide, by decide, by decide⟩

/-- E_RANGE at the first index out of range; the length of the message is the largest, MSG_BYTES. -/
theorem witness_Errors_range : ∃ s u : State,
    (s.pending = some 0x2007 ∧ s.events = .engine :: [] ∧ decode 0x2007 = .command (.sm4Round 32) ∧ s.status.rkv = true) ∧
    u.pending = some 0x213 ∧ u.events = .engine :: [] ∧ decode 0x213 = .command (.sm3Padblk 2) ∧
    u.msglen.toNat = u.config.msgBytes ∧ (u.msglen.toNat + 72) / 64 = 2 :=
  ⟨inFlight 0x2007 (keyed zeroBlock zeroBlock), inFlight 0x213 { smallest with msglen := 64 }, by decide +kernel, rfl, rfl,
    by decide, by decide, by decide⟩

/-- The last indexes in range, which complete without an error. -/
theorem witness_Errors_none :
    decode 0x1f07 = .command (.sm4Round 31) ∧ statusAfter (step (inFlight 0x1f07 (keyed zeroBlock zeroBlock))) = some 0xa ∧
    decode 0x113 = .command (.sm3Padblk 1) ∧ (56 + 72) / 64 = 2 ∧
    statusAfter (step (inFlight 0x113 { State.reset with msglen := 56 })) = some 0x2 := by decide +kernel

/-- A command that writes, and a next state of it, for the frames. -/
theorem witness_frames :
    (after (exec .nop .reset)).isSome = true ∧ (after (exec .sm4Sbox .reset)).isSome = true ∧
    (after (exec .sm4Enc (keyed katBlock katBlock))).isSome = true ∧ (after (exec .sm4Keyexp .reset)).isSome = true ∧
    (after (exec (.sm3Padblk 0) abc)).isSome = true ∧ (after (exec .sm3Digest abc)).isSome = true := by decide +kernel

theorem witness_Sm4Sbox : (withSin 0x123456ef).sin = 0x123456ef ∧ (withSin 0xef).sin = 0xef ∧ (withSin 0).sin = 0 ∧
    (withSin 0xff).sin = 0xff := by decide

/-- The key commands with and without round keys, and the state of the rule's example. -/
theorem witness_Sm4Round_Enc_Dec : ∃ s : State, State.reset.status.rkv = false ∧ s.status.rkv = true ∧
    s.rk = keyExpand katBlock ∧ s.x = katBlock ∧ s.din = katBlock ∧ 0 < 32 ∧ 31 < 32 ∧ 32 ≤ 32 ∧ 0xffffff < 2 ^ 24 :=
  ⟨keyed katBlock katBlock, rfl, rfl, rfl, rfl, rfl, by decide, by decide, by decide, by decide⟩

theorem witness_Sm4Dec_example : ∃ s : State, s.status.rkv = true ∧ s.rk = keyExpand katBlock ∧
    s.din = ⟨0x681edf34, 0xd206965e, 0x86b3e94f, 0x536e4246⟩ :=
  ⟨{ keyed katBlock katBlock with din := ⟨0x681edf34, 0xd206965e, 0x86b3e94f, 0x536e4246⟩ }, rfl, rfl, rfl⟩

theorem witness_Sm4Keyexp : ∃ s t : State, exec .sm4Keyexp s = .next t := ⟨.reset, _, rfl⟩

theorem witness_Sm4Final : ∃ s : State, s.x = ⟨0x536e4246, 0x86b3e94f, 0xd206965e, 0x681edf34⟩ :=
  ⟨{ State.reset with x := ⟨0x536e4246, 0x86b3e94f, 0xd206965e, 0x681edf34⟩ }, rfl⟩

/-- SM3_PADBLK: too long; the first index out of range; an unwritten byte needed; and every needed byte written. -/
theorem witness_Sm3Padblk :
    (smallest.config.msgBytes < 65 ∧ 64 ≤ smallest.config.msgBytes ∧ (64 + 72) / 64 ≤ 2 ∧ 1 < (64 + 72) / 64) ∧
    (State.reset.msg.read 0 = none ∧ 0 < min (64 * 0 + 64) 1 ∧ 0 < (1 + 72) / 64) ∧
    abc.msglen.toNat = 3 ∧ abc.msg.read 0 = some 0x61 ∧ abc.msg.read 1 = some 0x62 ∧ abc.msg.read 2 = some 0x63 ∧
    min (64 * 0 + 64) 3 = 3 := by decide

theorem witness_Sm3Expand : ∃ s u : State, s.b = Vector.replicate 16 0 ∧ u.b = abcBlock :=
  ⟨.reset, { State.reset with b := abcBlock }, rfl, rfl⟩

theorem witness_Sm3Compress : ∃ s : State, s.v = sm3IV ∧ s.w = expandW abcBlock ∧ s.wp = expandWP s.w :=
  ⟨{ State.reset with v := sm3IV, w := expandW abcBlock, wp := expandWP (expandW abcBlock) }, rfl, rfl, rfl⟩

/-- SM3_DIGEST: too long; the last byte unwritten in the largest message; the empty message; "abc". -/
theorem witness_Sm3Digest :
    smallest.config.msgBytes < 65 ∧ 64 ≤ smallest.config.msgBytes ∧ 63 < 64 ∧ smallest.msg.read 63 = none ∧
    State.reset.msglen = 0 ∧ abc.msglen = 3 ∧ abc.msglen.toNat = ([0x61, 0x62, 0x63] : List Byte).length ∧
    abc.msg.read 0 = some 0x61 ∧ abc.msg.read 1 = some 0x62 ∧ abc.msg.read 2 = some 0x63 := by decide

theorem witness_DigestIsTheBlockByBlockPath :
    abc.msglen.toNat ≤ abc.config.msgBytes ∧ (after (exec .sm3Digest abc)).isSome = true := by decide +kernel

theorem witness_key_coherent : Coherent (keyed katBlock katBlock) ∧ (keyed katBlock katBlock).status.rkv = true :=
  ⟨{ busy_iff_pending := by decide, not_busy_and_done := by decide, err_iff_code := by decide, err_only_done := by decide,
     code_not_reserved := by decide, rkv_keys := fun _ => rfl, pending_is_cmd := nofun,
     msg_wf := by decide, msg_within := by decide }, rfl⟩

theorem witness_SboxIsInjective : sbox 0xff = sbox 0xff := rfl

theorem witness_Padding : ([] : List Byte).length < 2 ^ 61 := by decide

theorem witness_PadBlock : 0 < blockCount 55 ∧ (∀ p, 64 * 0 ≤ p → p < min (64 * 0 + 64) 0 → (0 : Byte) = 1) :=
  ⟨by decide, fun p _ h => by simp at h⟩

theorem witness_ExpansionIsLocal : 67 < 68 ∧ (1 : Word) ≠ (Vector.replicate 68 (0 : Word))[67] ∧ 63 < 64 ∧ 63 + 4 = 67 := by
  decide +kernel

theorem witness_UnsupportedAccess : ∃ s u : State, (2 ≠ 4 ∨ (0x004 : BitVec 17).toNat % 4 ≠ 0) ∧
    (4 ≠ 4 ∨ (0x1ffff : BitVec 17).toNat % 4 ≠ 0) ∧ s.events = .host (.read 0x004 2) :: [] ∧
    u.events = .host (.write 0x1ffff 4 0) :: [] :=
  ⟨facing (.host (.read 0x004 2)) .reset, facing (.host (.write 0x1ffff 4 0)) .reset, by decide, by decide, rfl, rfl⟩

theorem witness_OnlyStatus : ∃ s u w : State, s.pending ≠ none ∧ u.pending ≠ none ∧ w.pending ≠ none ∧
    s.events = rd 0x004 :: [] ∧ u.events = rd 0x000 :: [] ∧ w.events = wr 0x004 0 :: [] ∧ (0x000 : BitVec 17) ≠ 0x004 :=
  ⟨facing (rd 0x004) (issue 0 .reset), facing (rd 0x000) (issue 0 .reset), facing (wr 0x004 0) (issue 0 .reset),
    by decide, by decide, by decide, rfl, rfl, rfl, by decide⟩

theorem witness_StatusWord : ∃ s u : State, s.events = rd 0x004 :: [] ∧ u.events = wr 0x004 0xffffffff :: [] ∧ u.pending = none :=
  ⟨facing (rd 0x004) .reset, facing (wr 0x004 0xffffffff) .reset, rfl, rfl, rfl⟩

theorem witness_ReadsHaveNoSideEffect : ∃ s t u : State, s.events = .host (.read 0x1fffc 4) :: [] ∧ step s = .next t ∧
    RunsTo [((0x000 : BitVec 17), 4)].length { t with events := [rd 0x000, rd 0x1fffc] } u :=
  ⟨facing (rd 0x1fffc) .reset, { State.reset with rdata := some 0 },
    { State.reset with rdata := some 0, events := [rd 0x1fffc] }, rfl, rfl, rfl⟩

/-- The first and last offset of each register file, which the host can name. -/
theorem witness_HostReads :
    (facing (rd 0x0fc) .reset).pending = none ∧ (facing (rd 0x0fc) .reset).events = rd 0x0fc :: [] ∧
    (0x000 : BitVec 17).toNat = 0x000 ∧ (0x01c : BitVec 17).toNat = 0x01c ∧ (0x04c : BitVec 17).toNat = 0x04c ∧
    (0x064 : BitVec 17).toNat = 0x064 ∧ (0x080 : BitVec 17).toNat = 0x080 + 4 * 0 ∧ (0x0fc : BitVec 17).toNat = 0x080 + 4 * 31 ∧
    (0x100 : BitVec 17).toNat = 0x100 + 4 * 0 ∧ (0x11c : BitVec 17).toNat = 0x100 + 4 * 7 ∧
    (0x140 : BitVec 17).toNat = 0x140 + 4 * 0 ∧ (0x17c : BitVec 17).toNat = 0x140 + 4 * 15 ∧
    (0x200 : BitVec 17).toNat = 0x200 + 4 * 0 ∧ (0x30c : BitVec 17).toNat = 0x200 + 4 * 67 ∧
    (0x400 : BitVec 17).toNat = 0x400 + 4 * 0 ∧ (0x4fc : BitVec 17).toNat = 0x400 + 4 * 63 := by decide

theorem witness_HostWrites :
    (facing (wr 0x17c 7) .reset).pending = none ∧ (facing (wr 0x17c 7) .reset).events = wr 0x17c 7 :: [] ∧
    (after (step (facing (wr 0x17c 7) .reset))).map (fun t => t.b[15]) = some 7 ∧
    (after (step (facing (wr 0x11c 7) .reset))).map (fun t => t.v[7]) = some 7 ∧
    (after (step (facing (wr 0x01c 7) .reset))).map (fun t => t.key.w3) = some 7 := by decide +kernel

/-- The ends of each read-only range, and of each reserved range of the 4096-byte core. -/
theorem witness_ReadOnlyAndReserved :
    (∀ n ∈ [0x004, 0x030, 0x03c, 0x054, 0x064, 0x080, 0x0fc, 0x200, 0x30c, 0x400, 0x4fc], readOnlyOffset n ∧ n % 4 = 0) ∧
    (∀ n ∈ [0x008, 0x00c, 0x058, 0x05c, 0x068, 0x07c, 0x120, 0x13c, 0x180, 0x1fc, 0x310, 0x3fc, 0x500, 0xfffc, 0x11000,
      0x1fffc], reservedOffset State.reset.config.msgBytes n ∧ n % 4 = 0) := by
  unfold readOnlyOffset reservedOffset
  decide

/-- The places at the ends of the MSG window and at a gap of the map. -/
theorem witness_RegisterMap :
    locate .standard 0x4fc = .reg (.wp 63) ∧ locate .standard 0x10ffc = .msg 4092 ∧ locate .standard 0x11000 = .reserved ∧
    locate .standard 0x00c = .reserved := by decide +kernel

theorem witness_MsgWrite : ∃ s u : State, s.pending = none ∧ u.pending = none ∧ 0 < s.config.msgBytes ∧
    s.events = wr 0x10000 5 :: [] ∧ (0x1fffc : BitVec 17).toNat = 0x10000 + 65532 ∧ 65532 < u.config.msgBytes ∧
    u.events = wr 0x1fffc 5 :: [] :=
  ⟨facing (wr 0x10000 5) .reset, facing (wr 0x1fffc 5) largest, rfl, rfl, by decide, rfl, by decide, by decide, rfl⟩

theorem witness_MsgRead : ∃ s u : State, s.pending = none ∧ s.events = rd 0x10000 :: [] ∧
    (s.msg.read 0 = some 1 ∧ s.msg.read 1 = some 2 ∧ s.msg.read 2 = some 3 ∧ s.msg.read 3 = some 4) ∧
    u.pending = none ∧ u.events = rd 0x10000 :: [] ∧ u.msg.read 3 = none :=
  ⟨facing (rd 0x10000) (withMsg [1, 2, 3, 4]), facing (rd 0x10000) abc, rfl, rfl, by decide, rfl, rfl, by decide⟩

theorem witness_MsgReadAfterWrite : ∃ s : State, s.pending = none ∧ 0x10000 ≤ (0x10ffc : BitVec 17).toNat ∧
    (0x10ffc : BitVec 17).toNat < 0x10000 + s.config.msgBytes ∧ s.events = wr 0x10ffc 5 :: rd 0x10ffc :: [] :=
  ⟨{ State.reset with events := [wr 0x10ffc 5, rd 0x10ffc] }, rfl, by decide, by decide, rfl⟩

theorem witness_Reset : ∃ s : State, s.events = .reset :: [] ∧ s.pending ≠ none ∧ s.msg ≠ [] :=
  ⟨facing .reset (issue 9 abc), rfl, by decide, by decide⟩

theorem witness_StepKeepsCoherent : ∃ s t : State, Coherent s ∧ step s = .next t :=
  ⟨keyed katBlock katBlock, _, witness_key_coherent.1, rfl⟩

/-- RKV: reset, the first and last KEY offset, SM4_KEYEXP by an event and with none left, and E_NOKEY. -/
theorem witness_Rkv :
    (after (step (facing .reset (keyed katBlock katBlock)))).map (fun t => t.status.rkv) = some false ∧
    (after (step (facing (wr 0x010 0) (keyed zeroBlock zeroBlock)))).map (fun t => t.status.rkv) = some false ∧
    (after (step (facing (wr 0x01c 0) (keyed zeroBlock zeroBlock)))).map (fun t => t.status.rkv) = some false ∧
    (after (step (inFlight 0x08 .reset))).map (fun t => t.status.rkv) = some true ∧
    (after (step (issue 0x08 .reset))).map (fun t => t.status.rkv) = some true ∧
    (after (step (inFlight 0x0a .reset))).map (fun t => (t.status.err, t.status.errcode)) = some (true, 0x02) := by
  decide +kernel

/-- RK changed by SM4_KEYEXP, and W by SM3_EXPAND, in a step that is not a reset. -/
theorem witness_RoundKeysAndExpansion :
    (after (step (issue 0x08 .reset))).map (fun t => decide (t.rk ≠ State.reset.rk)) = some true ∧
    (after (step (issue 0x14 { State.reset with b := abcBlock }))).map (fun t => decide (t.w ≠ State.reset.w)) = some true := by
  decide +kernel

theorem witness_Polling : ∃ s t u : State, (s.pending = some 0 ∧ step { s with events := .engine :: [] } = .next t) ∧
    u.pending = some 0x16 ∧ faultOf (step { u with events := .engine :: [] }) = some .unwrittenMsg :=
  ⟨issue 0 .reset, _, issue 0x16 { State.reset with msglen := 3 }, ⟨rfl, rfl⟩, rfl, by decide +kernel⟩

theorem witness_EngineMove : ∃ s u : State, s.pending = some 0x1307 ∧ s.events = .engine :: [] ∧ u.pending = some 0x13 ∧
    u.events = .engine :: [] ∧ faultOf (step u) = some .unwrittenMsg :=
  ⟨inFlight 0x1307 .reset, inFlight 0x13 { State.reset with msglen := 1 }, rfl, rfl, rfl, rfl, by decide +kernel⟩

theorem witness_Idle : ∃ s : State, s.pending = none ∧ s.events = .engine :: [] ∧ State.reset.pending = none ∧
    State.reset.events = [] := ⟨facing .engine .reset, rfl, rfl, rfl, rfl⟩

end Sys2Proof.Tests
end

/-! # The host's port and the MSG buffer (20_memory.md): proofs of R73, R74, R76 and R78 -/

namespace Sys2Proof.Proofs

open Sys2Proof.Machine Sys2Proof.Claims

/-! ## A supported transaction with no command in flight -/

/-- A supported read while the core is idle is `hostRead` of what stands at the offset. -/
theorem step_rd_idle {s : State} {off : BitVec 17} {rest : List Event} (hp : s.pending = none) (ha : off.toNat % 4 = 0)
    (he : s.events = rd off :: rest) : step s = hostRead { s with events := rest } (locate s.config off) := by
  simp [step_eq, he, rd, takeEvent, hostStep, acceptedAccess, ha, hp]

/-- A supported write while the core is idle is `hostWrite` to what stands at the offset. -/
theorem step_wr_idle {s : State} {off : BitVec 17} {val : Word} {rest : List Event} (hp : s.pending = none)
    (ha : off.toNat % 4 = 0) (he : s.events = wr off val :: rest) :
    step s = hostWrite { s with events := rest } val (locate s.config off) := by
  simp [step_eq, he, wr, takeEvent, hostStep, acceptedAccess, ha, hp]

/-! ## Reserved and read-only offsets (R71, R73) -/

/-- The element that a word-aligned offset names stands at that offset. -/
theorem offset_of_elementAt {base n off : Nat} {i : Fin n} (hb : base % 4 = 0) (ha : off % 4 = 0)
    (h : elementAt base n off = some i) : off = base + 4 * i.val := by
  unfold elementAt at h
  split at h
  · obtain rfl := Option.some.inj h
    dsimp only
    omega
  · cases h

/-- A single register's row of the map, before the rows `o`. -/
theorem offset_of_mem_ite {n off : Nat} {q : Reg} {o : Option Reg} (hq : n = q.offset) (ho : ∀ r ∈ o, off = r.offset) :
    ∀ r ∈ (if off = n then some q else o), off = r.offset := by
  intro r hr
  split at hr
  · next h => obtain rfl := Option.some.inj hr; exact h.trans hq
  · exact ho r hr

/-- A register file's row of the map. -/
theorem offset_of_mem_map {base n off : Nat} {q : Fin n → Reg} (hb : base % 4 = 0) (ha : off % 4 = 0)
    (hq : ∀ i, (q i).offset = base + 4 * i.val) : ∀ r ∈ (elementAt base n off).map q, off = r.offset := by
  intro r hr
  obtain ⟨i, hi, rfl⟩ := Option.map_eq_some_iff.1 hr
  rw [hq, ← offset_of_elementAt hb ha hi]

/-- Rows of the map one after the other. -/
theorem offset_of_mem_or {off : Nat} {o p : Option Reg} (ho : ∀ r ∈ o, off = r.offset) (hp : ∀ r ∈ p, off = r.offset) :
    ∀ r ∈ o.or p, off = r.offset := by
  intro r hr
  obtain h | ⟨-, h⟩ := Option.or_eq_some_iff.1 hr
  · exact ho r h
  · exact hp r h

/-- The map names a register only at the register's own offset. -/
theorem offset_of_regAt {off : Nat} (ha : off % 4 = 0) : ∀ r ∈ regAt off, off = r.offset := by
  unfold regAt
  iterate 6 refine offset_of_mem_ite rfl ?_
  iterate 8 refine offset_of_mem_or ?_ (offset_of_mem_map rfl ha fun _ => rfl)
  exact offset_of_mem_map rfl ha fun _ => rfl

/-- No register stands at a reserved offset. -/
theorem not_reservedOffset_offset (msgBytes : Nat) (r : Reg) : ¬ reservedOffset msgBytes r.offset := by
  unfold reservedOffset
  cases r <;> simp only [Reg.offset] <;> omega

/-- A reserved offset is reserved in the map: no register and no MSG byte stands there. -/
theorem locate_of_reservedOffset {c : Config} {off : BitVec 17} (ha : off.toNat % 4 = 0)
    (h : reservedOffset c.msgBytes off.toNat) : locate c off = .reserved := by
  have hreg : regAt off.toNat = none := by
    refine Option.eq_none_iff_forall_ne_some.2 fun r hr => not_reservedOffset_offset c.msgBytes r ?_
    rwa [← offset_of_regAt ha r hr]
  have hmsg : ¬ (msgBase ≤ off.toNat ∧ off.toNat < msgBase + c.msgBytes) := by
    unfold reservedOffset at h
    unfold msgBase
    omega
  simp [locate, hreg, hmsg]

/-- A read-only offset is that of a register which a host write leaves alone. -/
theorem exists_reg_of_readOnlyOffset {n : Nat} (ha : n % 4 = 0) (h : readOnlyOffset n) :
    ∃ r : Reg, n = r.offset ∧ ∀ s val, writeReg s r val = s := by
  obtain h | h | h | h | h | h | h := h
  · exact ⟨.status, h, fun _ _ => rfl⟩
  · exact ⟨.dout ⟨(n - 0x030) / 4, by omega⟩, by simp only [Reg.offset]; omega, fun _ _ => rfl⟩
  · exact ⟨.sout, h, fun _ _ => rfl⟩
  · exact ⟨.nblk, h, fun _ _ => rfl⟩
  · exact ⟨.rk ⟨(n - 0x080) / 4, by omega⟩, by simp only [Reg.offset]; omega, fun _ _ => rfl⟩
  · exact ⟨.w ⟨(n - 0x200) / 4, by omega⟩, by simp only [Reg.offset]; omega, fun _ _ => rfl⟩
  · exact ⟨.wp ⟨(n - 0x400) / 4, by omega⟩, by simp only [Reg.offset]; omega, fun _ _ => rfl⟩

/-- Settles O47: a read-only register ignores its write, and nothing stands at a reserved offset. -/
theorem readOnlyAndReservedOffsetsIgnoreWrites : Obligations.ReadOnlyAndReservedOffsetsIgnoreWrites := by
  intro s rest off val hp ha
  refine ⟨fun hoff he => ?_, fun hoff he => ?_⟩
  · rw [step_wr_idle hp ha he]
    obtain hro | hres := hoff
    · obtain ⟨r, hr, hkeep⟩ := exists_reg_of_readOnlyOffset ha hro
      rw [locate_of_offset hr, hostWrite, hkeep]
    · rw [locate_of_reservedOffset ha hres, hostWrite]
  · rw [step_rd_idle hp ha he, locate_of_reservedOffset ha hoff, hostRead]

/-! ## The MSG window (R76, R78) -/

/-- A byte of a word by its bit position: byte k from the left is the 8 bits from bit 8 * (3 - k). -/
theorem byteOf_eq_extractLsb' (v : Word) (k : Nat) : byteOf v k = v.extractLsb' (8 * (3 - k)) 8 := by
  apply BitVec.eq_of_toNat_eq
  simp [byteOf]

/-- Byte k of a stored word, k from the left, is the byte at the k-th address from its own. -/
theorem read_writeWord_byte (m : Memory) (a : Nat) (v : Word) {k : Nat} (hk : k < 4) :
    (m.writeWord a v).read (a + k) = some (v.extractLsb' (8 * (3 - k)) 8) := by
  rw [Memory.read_writeWord, if_pos (by omega), Nat.add_sub_cancel_left, byteOf_eq_extractLsb']

/-- The four bytes of a word that is all written, concatenated. -/
theorem readWord_of_read {m : Memory} {a : Nat} {b0 b1 b2 b3 : Byte} (h0 : m.read a = some b0)
    (h1 : m.read (a + 1) = some b1) (h2 : m.read (a + 2) = some b2) (h3 : m.read (a + 3) = some b3) :
    m.readWord a = some (b0 ++ b1 ++ b2 ++ b3) := by
  simp only [Memory.readWord, h0, h1, h2, h3, packBytes]

/-- A word with an unwritten byte has no value. -/
theorem readWord_eq_none {m : Memory} {a : Nat} (h : m.read a = none ∨ m.read (a + 1) = none ∨ m.read (a + 2) = none ∨
    m.read (a + 3) = none) : m.readWord a = none := by
  unfold Memory.readWord
  split
  · next h0 h1 h2 h3 => simp [h0, h1, h2, h3] at h
  · rfl

/-- A command whose `perform` keeps the MSG buffer keeps it: the check and the completion write STATUS alone. -/
theorem runDecoded_msg {d : Decoded} {perform : State → Result} {s t : State}
    (hperform : ∀ u, perform s = .next u → u.msg = s.msg) (h : runDecoded d perform s = .next t) : t.msg = s.msg := by
  obtain ⟨e, -, rfl⟩ | ⟨-, u, hu, rfl⟩ := runDecoded_next h
  · exact completeError_msg e s
  · exact hperform u hu

/-- As `runDecoded_msg`, for a command that only writes registers. -/
theorem runCommand_msg {i : Instr} {perform : State → State} {s t : State} (hperform : (perform s).msg = s.msg)
    (h : runCommand i perform s = .next t) : t.msg = s.msg :=
  runDecoded_msg (fun u hu => by cases hu; exact hperform) h

/-- No command writes the MSG buffer. -/
theorem exec_msg {i : Instr} {s t : State} (h : exec i s = .next t) : t.msg = s.msg := by
  cases i
  case sm3Padblk idx | sm3Digest =>
    rw [exec] at h
    refine runDecoded_msg (fun u hu => ?_) h
    dsimp only at hu
    split at hu
    · cases hu; rfl
    · cases hu
  all_goals
    rw [exec] at h
    exact runCommand_msg (by rfl) h

/-- Settles O49: the memory is `writeWord`'s, whose bytes `read_writeWord` gives. -/
theorem msgWriteStoresFourBytesBigEndian : Obligations.MsgWriteStoresFourBytesBigEndian := by
  refine ⟨fun s rest a off val hp ha hsize hoff he => ⟨s.msg.writeWord a val, ?_, ?_⟩, fun i s t => exec_msg⟩
  · rw [step_wr_idle hp (by omega) he, locate_of_msg hoff hsize, hostWrite]
  · have byte {k : Nat} (hk : k < 4) := read_writeWord_byte s.msg a val hk
    refine ⟨byte (k := 0) (by decide), byte (k := 1) (by decide), byte (k := 2) (by decide), byte (k := 3) (by decide),
      fun p hpa => ?_⟩
    rw [Memory.read_writeWord, if_neg (by omega)]

/-- Settles O50: the read answers `readWord`, or faults where that has no value. -/
theorem msgReadReturnsFourBytesOrFaults : Obligations.MsgReadReturnsFourBytesOrFaults := by
  intro s rest a off hp ha hsize hoff he
  rw [step_rd_idle hp (by omega) he, locate_of_msg hoff hsize, hostRead]
  refine ⟨fun b0 b1 b2 b3 h0 h1 h2 h3 => ?_, fun h => ?_⟩
  · simp only [readWord_of_read h0 h1 h2 h3]
  · simp only [readWord_eq_none h]

/-! ## Reads have no side effect (R74) -/

/-- The registers of `s`, with other moves to come and another answer at the port. -/
def withPort (s : State) (es : List Event) (answer : Option Word) : State := { s with events := es, rdata := answer }

@[simp] theorem withPort_config (s : State) (es : List Event) (r : Option Word) : (withPort s es r).config = s.config := rfl
@[simp] theorem withPort_pending (s : State) (es : List Event) (r : Option Word) :
    (withPort s es r).pending = s.pending := rfl
@[simp] theorem withPort_msg (s : State) (es : List Event) (r : Option Word) : (withPort s es r).msg = s.msg := rfl

/-- The events of a list of reads, by offset and size. -/
def readEvents (reads : List (BitVec 17 × Nat)) : List Event := reads.map fun r => .host (.read r.1 r.2)

/-- What a register reads as does not depend on the port. -/
theorem readReg_withPort (s : State) (es : List Event) (r : Option Word) (reg : Reg) :
    readReg (withPort s es r) reg = readReg s reg := by
  cases reg <;> rfl

/-- The port at which a read takes place does not decide its answer. -/
theorem hostRead_withPort {s t : State} {p : Place} (h : hostRead s p = .next t) (es : List Event) (r : Option Word) :
    hostRead (withPort s es r) p = .next (withPort s es t.rdata) := by
  cases p with
  | reg reg =>
    cases h
    rw [hostRead, readReg_withPort]
    rfl
  | reserved =>
    cases h
    rfl
  | msg a =>
    simp only [hostRead, withPort_msg] at h ⊢
    split at h
    · cases h; rfl
    · cases h

/-- As `hostRead_withPort`, for the whole transaction: neither is it judged by the port. -/
theorem hostStep_read_withPort {s t : State} {off : BitVec 17} {size : Nat} (h : hostStep (.read off size) s = .next t)
    (es : List Event) (r : Option Word) :
    hostStep (.read off size) (withPort s es r) = .next (withPort s es t.rdata) := by
  rw [hostStep] at h ⊢
  split at h
  · cases h
  · next haccepted =>
    split at h
    · cases h
    · next hfree =>
      rw [if_neg haccepted, if_neg (by simpa using hfree)]
      exact hostRead_withPort h es r

/-- An answered read takes its event and leaves its answer, and it answers the same at any other port. -/
theorem step_read_next {s t : State} {off : BitVec 17} {size : Nat} {rest : List Event}
    (he : s.events = .host (.read off size) :: rest) (h : step s = .next t) :
    t = withPort s rest t.rdata ∧ ∀ rest' r,
      step (withPort s (.host (.read off size) :: rest') r) = .next (withPort s rest' t.rdata) := by
  have hstep : hostStep (.read off size) { s with events := rest } = .next t := by simpa [step_eq, he, takeEvent] using h
  refine ⟨?_, fun rest' r => hostStep_read_withPort hstep rest' r⟩
  obtain ⟨_, v, -, -, rfl⟩ | ⟨_, _, hw, -⟩ := hostStep_next hstep
  · rfl
  · cases hw

/-- A run of at least one step takes a first step and runs on from there. -/
theorem run_succ_next {M : Host.Core} {k : Nat} {s u : M.State} (h : M.run (k + 1) s = .next u) :
    ∃ t, M.step s = .next t ∧ M.run k t = .next u := by
  rw [Host.Core.run] at h
  split at h
  · next t ht => exact ⟨t, ht, h⟩
  · cases h
  · cases h

/-- Reads, however many, leave every register. -/
theorem runsTo_reads {reads : List (BitVec 17 × Nat)} {s u : State} {rest : List Event} {r : Option Word}
    (h : RunsTo reads.length (withPort s (readEvents reads ++ rest) r) u) : ∃ r', u = withPort s rest r' := by
  induction reads generalizing r with
  | nil => cases h; exact ⟨r, rfl⟩
  | cons q reads ih =>
    obtain ⟨t, ht, hrun⟩ := run_succ_next h
    obtain ⟨htq, -⟩ := step_read_next (s := withPort s (readEvents (q :: reads) ++ rest) r) rfl ht
    rw [htq] at hrun
    exact ih hrun

/-- Settles O45: the reads between leave the registers, and the answer depends on nothing else. -/
theorem readsHaveNoSideEffect : Obligations.ReadsHaveNoSideEffect := by
  intro s t rest off size he h
  obtain ⟨ht, hagain⟩ := step_read_next he h
  refine ⟨ht, fun between rest' u hrun => ?_⟩
  rw [ht] at hrun
  obtain ⟨r, rfl⟩ := runsTo_reads (s := s) hrun
  exact ⟨_, hagain rest' r, rfl⟩

end Sys2Proof.Proofs

/-! # Decoding and the opcode table (30_encoding.md): proof of R104 -/

namespace Sys2Proof.Proofs

open Sys2Proof.Machine Sys2Proof.Claims

/-! ## The fields of a command word (R100) -/

theorem toNat_opField (c : Word) : (opField c).toNat = c.toNat % 256 := by
  simp [opField]

theorem toNat_idxField (c : Word) : (idxField c).toNat = c.toNat / 256 := by
  have h := c.isLt
  simp only [idxField, BitVec.extractLsb'_toNat, Nat.shiftRight_eq_div_pow]
  omega

/-- The mask of an index operation leaves the OP field alone to decide. -/
theorem and_opMask_eq_iff {c : Word} {op : BitVec 8} : c &&& 0x000000FF = op.setWidth 32 ↔ opField c = op := by
  have h := op.isLt
  rw [← BitVec.toNat_inj, ← BitVec.toNat_inj, toNat_opField, BitVec.toNat_and, BitVec.toNat_setWidth,
    show BitVec.toNat (0x000000FF : Word) = 2 ^ 8 - 1 from rfl, Nat.and_two_pow_sub_one_eq_mod]
  omega

/-- A word is a bare OP when its IDX field is zero. -/
theorem eq_setWidth_op_iff {c : Word} {op : BitVec 8} :
    c = op.setWidth 32 ↔ opField c = op ∧ (idxField c).toNat = 0 := by
  have h := op.isLt
  rw [← BitVec.toNat_inj, ← BitVec.toNat_inj, toNat_opField, toNat_idxField, BitVec.toNat_setWidth]
  omega

/-! ## What a word decodes to -/

/-- Each no-operand row of the opcode map holds its command under its own OP. -/
theorem opcode_and_idx_of_mem_noOperandOps : ∀ p ∈ noOperandOps, p.2.opcode = p.1 ∧ p.2.idx = 0 := by decide

theorem opcode_and_idx_of_lookup {op : BitVec 8} {i : Instr} (h : noOperandOps.lookup op = some i) :
    i.opcode = op ∧ i.idx = 0 := by
  obtain ⟨l₁, l₂, hl, -⟩ := List.lookup_eq_some_iff.1 h
  exact opcode_and_idx_of_mem_noOperandOps (op, i) (by simp [hl])

/-- A word decodes to the command whose OP and IDX are the word's fields. -/
theorem decode_eq_command_iff {c : Word} {i : Instr} :
    decode c = .command i ↔ opField c = i.opcode ∧ (idxField c).toNat = i.idx := by
  constructor
  · intro h
    unfold decode at h
    dsimp only at h
    split at h
    · next hop => cases h; exact ⟨hop, rfl⟩
    · split at h
      · next hop => cases h; exact ⟨hop, rfl⟩
      · split at h
        · next j hj =>
          obtain ⟨hop, hidx⟩ := opcode_and_idx_of_lookup hj
          split at h
          · next hzero => cases h; exact ⟨hop.symm, hzero.trans hidx.symm⟩
          · cases h
        · cases h
  · rintro ⟨hop, hidx⟩
    unfold decode
    dsimp only
    rw [hop, hidx]
    cases i <;> rfl

/-- A word is ILLEGAL when it decodes to no command. -/
theorem decode_illegal_iff {c : Word} : (∃ why, decode c = .illegal why) ↔ ∀ i, decode c ≠ .command i := by
  cases decode c <;> simp

/-! ## The rows of the opcode table (R103) -/

/-- The mask of a command's row: the OP field for an index operation, else the whole word. -/
def rowMask : Instr → Word
  | .sm4Round _ | .sm3Padblk _ => 0x000000FF
  | _ => 0xFFFFFFFF

/-- The row of a command, from the columns of the opcode map. -/
def rowOf (i : Instr) : OpcodeRow := ⟨i.mnemonic, i.opcode.setWidth 32, rowMask i⟩

theorem rowOf_mem_opcodeTable (i : Instr) : rowOf i ∈ opcodeTable := by
  cases i <;> simp [opcodeTable, rowOf, rowMask, Instr.mnemonic, Instr.opcode]

/-- The table has no row but those of the two index operations and of the no-operand commands. -/
theorem opcodeTable_cases : ∀ r ∈ opcodeTable, r = rowOf (.sm4Round 0) ∨ r = rowOf (.sm3Padblk 0) ∨
    ∃ p ∈ noOperandOps, r = rowOf p.2 ∧ rowMask p.2 = BitVec.allOnes 32 := by decide

theorem opcodeTable_nodup : opcodeTable.Nodup := by decide

/-- A word that decodes matches its command's row. -/
theorem matches_rowOf_of_decode {c : Word} {i : Instr} (h : decode c = .command i) :
    c &&& (rowOf i).mask = (rowOf i).pattern := by
  obtain ⟨hop, hidx⟩ := decode_eq_command_iff.1 h
  cases i
  case sm4Round | sm3Padblk => exact and_opMask_eq_iff.2 hop
  all_goals exact BitVec.and_allOnes.trans (eq_setWidth_op_iff.2 ⟨hop, hidx⟩)

/-- A word that matches a row of the table decodes to a command of that row. -/
theorem exists_decode_of_matches {c : Word} {r : OpcodeRow} (hr : r ∈ opcodeTable) (h : c &&& r.mask = r.pattern) :
    ∃ i, decode c = .command i ∧ rowOf i = r := by
  obtain rfl | rfl | ⟨p, hp, rfl, hmask⟩ := opcodeTable_cases r hr
  · exact ⟨.sm4Round (idxField c).toNat, decode_eq_command_iff.2 ⟨and_opMask_eq_iff.1 h, rfl⟩, rfl⟩
  · exact ⟨.sm3Padblk (idxField c).toNat, decode_eq_command_iff.2 ⟨and_opMask_eq_iff.1 h, rfl⟩, rfl⟩
  · obtain ⟨-, hidx⟩ := opcode_and_idx_of_mem_noOperandOps p hp
    simp only [rowOf, hmask, BitVec.and_allOnes] at h
    obtain ⟨hop, hzero⟩ := eq_setWidth_op_iff.1 h
    exact ⟨p.2, decode_eq_command_iff.2 ⟨hop, hzero.trans hidx.symm⟩, rfl⟩

/-- Settles O3: a word matches the row of the command it decodes to, and no other row. -/
theorem decodeFollowsTheOpcodeTable : Obligations.DecodeFollowsTheOpcodeTable := by
  intro c
  refine ⟨fun h => decode_eq_command_iff.2 ⟨h, toNat_idxField c⟩, fun h => decode_eq_command_iff.2 ⟨h, toNat_idxField c⟩,
    ?_, fun i hi => ⟨rowOf i, rowOf_mem_opcodeTable i, rfl, matches_rowOf_of_decode hi⟩, ?_⟩
  · rw [decode_illegal_iff]
    constructor
    · intro hill r hr hmatch
      obtain ⟨i, hi, -⟩ := exists_decode_of_matches hr hmatch
      exact hill i hi
    · exact fun hnone i hi => hnone (rowOf i) (rowOf_mem_opcodeTable i) (matches_rowOf_of_decode hi)
  · refine opcodeTable_nodup.imp_of_mem fun {r q} hr hq hne => ?_
    rintro ⟨hmr, hmq⟩
    obtain ⟨i, hi, rfl⟩ := exists_decode_of_matches hr hmr
    obtain ⟨j, hj, rfl⟩ := exists_decode_of_matches hq hmq
    obtain rfl : i = j := Decoded.command.inj (hi.symm.trans hj)
    exact hne rfl

end Sys2Proof.Proofs

/-! # The command cycle (40_command_cycle.md): proofs of R132 and R140 -/

namespace Sys2Proof.Proofs

open Sys2Proof.Machine Sys2Proof.Claims

/-! ## Issue (R132) -/

/-- A supported write while a command is in flight is a hazard, whatever stands at the offset (R345). -/
theorem step_wr_inFlight {s : State} {off : BitVec 17} {val : Word} {rest : List Event} (hp : s.pending ≠ none)
    (ha : off.toNat % 4 = 0) (he : s.events = wr off val :: rest) : step s = .fault .hazardBusy := by
  simp [step_eq, he, wr, takeEvent, hostStep, acceptedAccess, ha, Option.isSome_iff_ne_none, hp]

/-- Settles O7: CMD stands at offset 0, so an idle core issues the word, and a busy one meets the hazard. -/
theorem cmdWriteIssuesTheCommand : Obligations.CmdWriteIssuesTheCommand := by
  intro s rest c he
  refine ⟨fun hp => ?_, fun hp => step_wr_inFlight hp rfl he⟩
  rw [step_wr_idle hp rfl he, locate_of_offset (r := .cmd) rfl]
  rfl

/-! ## Completion (R133, R134) -/

theorem completeError_eq_completedWith (e : ErrCode) (s : State) : completeError e s = completedWith e.code s := rfl

/-- A command that passes its check and only writes registers completes with them written. -/
theorem runCommand_pass {i : Instr} {s : State} (perform : State → State) (h : check (.command i) s = none) :
    runCommand i perform s = .next (completed (perform s)) :=
  runDecoded_pass h rfl

/-- The engine completes an ILLEGAL word with E_ILLEGAL (30_encoding.md R105). -/
theorem performWord_illegal {c : Word} {why : IllegalReason} (h : decode c = .illegal why) (s : State) :
    performWord c s = .next (completedWith 0x01 s) := by
  have hcheck : check (.illegal why) s = some .illegal := rfl
  rw [performWord, h]
  exact runDecoded_error hcheck

/-! ## NOP (R140) -/

/-- The only word of a command with index 0 is its bare OP. -/
theorem decode_eq_command_iff_of_idx_eq_zero {i : Instr} (hi : i.idx = 0) {c : Word} :
    decode c = .command i ↔ c = i.opcode.setWidth 32 := by
  rw [decode_eq_command_iff, eq_setWidth_op_iff, hi]

/-- NOP has no check to fail (60_exceptions.md R312). -/
theorem check_nop (s : State) : check (.command .nop) s = none :=
  check_command_none.2 ⟨nofun, nofun, rfl⟩

theorem exec_nop (s : State) : exec .nop s = .next (completed s) := runCommand_pass id (check_nop s)

/-- Settles O11: NOP always passes its check, and the word with OP 0 and IDX 1 is ILLEGAL. -/
theorem nopDoesNothing : Obligations.NopDoesNothing := by
  have hstray : decode 0x00000100 = .illegal (.strayIdx 0x00 1) := by decide
  have hdone : statusWord { Status.reset with done := true } = 0x00000002 := by decide
  exact ⟨fun c => decode_eq_command_iff_of_idx_eq_zero rfl, performWord_illegal hstray, exec_nop,
    fun s => ⟨_, exec_nop _, rfl⟩, fun cfg => ⟨_, exec_nop _, hdone⟩⟩

end Sys2Proof.Proofs

/-! # The SM4 functions (41_sm4_functions.md): proof of R163 -/

namespace Sys2Proof.Proofs

open Sys2Proof.Machine Sys2Proof.Claims

/-- Rotation only moves bits, so it is linear over XOR. -/
theorem rotateLeft_xor {w : Nat} (x y : BitVec w) (n : Nat) :
    (x ^^^ y).rotateLeft n = x.rotateLeft n ^^^ y.rotateLeft n := by
  ext i hi
  simp only [BitVec.getElem_rotateLeft, BitVec.getElem_xor]
  split <;> rfl

/-! ## The linear diffusion L (R163) -/

/-- The model's L, in its own `rol`, is L in the library's rotation. -/
theorem sm4L_eq_diffused (t : Word) : sm4L t = diffused t := by
  simp only [sm4L, diffused, rol_eq_rotateLeft]

/-- L is an XOR of rotations, each linear over XOR. -/
theorem diffused_xor (a b : Word) : diffused (a ^^^ b) = diffused a ^^^ diffused b := by
  simp only [diffused, rotateLeft_xor]
  ac_rfl

/-- Settles O36: the formula and the linearity hold of L in the library's rotation; the fixed values are evaluated. -/
theorem roundDiffusionIsLinear : Obligations.RoundDiffusionIsLinear := by
  refine ⟨sm4L_eq_diffused, fun a b => ?_, ?_⟩
  · simp only [sm4L_eq_diffused, diffused_xor]
  · decide

end Sys2Proof.Proofs

/-! # The SM4 commands (42_sm4_commands.md): proofs of R200 to R206 and R210 -/

namespace Sys2Proof.Proofs

open Sys2Proof.Machine Sys2Proof.Claims

/-! ## The SM4 functions in the library's terms (41_sm4_functions.md) -/

/-- The byte operand and its zero extension (R200), in the library's bit fields. -/
theorem sbox_sinByte_setWidth (s : State) : (sbox (sinByte s)).setWidth 32 = 0#24 ++ sbox (s.sin.extractLsb' 0 8) := by
  rw [BitVec.setWidth_eq_append (by decide), BitVec.cast_eq, sinByte, BitVec.setWidth_eq_extractLsb' (by decide)]

theorem tau_eq_tauOf (x : Word) : tau x = tauOf x := by
  simp only [tau, packBytes, byteOf_eq_extractLsb', tauOf]

theorem sm4Lk_eq_keyDiffused (x : Word) : sm4Lk x = keyDiffused x := by
  simp only [sm4Lk, keyDiffused, rol_eq_rotateLeft]

theorem sm4T_eq_diffused_tauOf (x : Word) : sm4T x = diffused (tauOf x) := by
  rw [sm4T, sm4L_eq_diffused, tau_eq_tauOf]

theorem sm4Tk_eq_keyDiffused_tauOf (x : Word) : sm4Tk x = keyDiffused (tauOf x) := by
  rw [sm4Tk, sm4Lk_eq_keyDiffused, tau_eq_tauOf]

theorem sm4F_eq_newWord (x0 x1 x2 x3 k : Word) : sm4F x0 x1 x2 x3 k = newWord x0 x1 x2 x3 k := by
  rw [sm4F, newWord, sm4T_eq_diffused_tauOf]

/-! ## The word of a command and its check -/

/-- The word of a command holds its index above its OP (30_encoding.md R100). -/
theorem decode_eq_command_iff_toNat {c : Word} {i : Instr} :
    decode c = .command i ↔ i.idx < 2 ^ 24 ∧ c.toNat = i.idx * 256 + i.opcode.toNat := by
  have hc := c.isLt
  have hop := i.opcode.isLt
  rw [decode_eq_command_iff, ← BitVec.toNat_inj, toNat_opField, toNat_idxField]
  omega

/-- A command that needs round keys reports E_NOKEY before any other error (60_exceptions.md R312). -/
theorem check_noKey {i : Instr} {s : State} (hi : needsKey i = true) (hkey : s.status.rkv = false) :
    check (.command i) s = some .noKey := by
  simp [check, hi, hkey]

theorem check_sm4Round_range {idx : Nat} {s : State} (hkey : s.status.rkv = true) (hidx : 32 ≤ idx) :
    check (.command (.sm4Round idx)) s = some .range := by
  simp [check, needsKey, readsMessage, idxOutOfRange, hkey, hidx]

theorem check_sm4Round_none {idx : Nat} {s : State} (hkey : s.status.rkv = true) (hidx : idx < 32) :
    check (.command (.sm4Round idx)) s = none :=
  check_command_none.2 ⟨fun _ => hkey, nofun, decide_eq_false (by omega)⟩

/-! ## SM4_ROUND (R206) -/

/-- With round keys and an index in range, SM4_ROUND rolls X by one round. -/
theorem exec_sm4Round {idx : Nat} {s : State} (hkey : s.status.rkv = true) (hidx : idx < 32) :
    exec (.sm4Round idx) s = .next (completed { s with
      x := { w0 := s.x.w1, w1 := s.x.w2, w2 := s.x.w3, w3 := newWord s.x.w0 s.x.w1 s.x.w2 s.x.w3 s.rk[idx] } }) := by
  rw [exec, execSm4Round, runCommand_pass _ (check_sm4Round_none hkey hidx), sm4Round, roundKey, wordAt_lt s.rk idx hidx,
    sm4F_eq_newWord]

/-- The first round key of the known-answer key, by evaluation of the key schedule. -/
theorem keyExpand_katBlock_first : (keyExpand katBlock)[0] = 0xf12186f9 := by decide +kernel

theorem newWord_katBlock_first :
    newWord katBlock.w0 katBlock.w1 katBlock.w2 katBlock.w3 (keyExpand katBlock)[0] = 0x27fad345 := by
  rw [keyExpand_katBlock_first]
  decide

/-- Settles O18: the checks in their order, then one round; the example is the round of `newWord_katBlock_first`. -/
theorem sm4RoundResult : Obligations.Sm4RoundResult := by
  refine ⟨fun c idx => decode_eq_command_iff_toNat, fun idx s hkey => exec_error (check_noKey rfl hkey),
    fun idx s hkey hidx => exec_error (check_sm4Round_range hkey hidx), fun idx hidx s hkey => exec_sm4Round hkey hidx,
    fun s hkey hrk hx => ?_⟩
  rw [exec_sm4Round hkey (by decide)]
  simp only [hrk, hx, newWord_katBlock_first]
  rfl

/-! ## The commands without a condition to fail (60_exceptions.md R312) -/

/-- A command that needs no round keys, no message and no index completes with what it writes. -/
theorem runCommand_of_unconditional (i : Instr) {perform : State → State} {s : State} (hkey : needsKey i = false)
    (hmsg : readsMessage i = false) (hidx : idxOutOfRange i s = false) :
    runCommand i perform s = .next (completed (perform s)) :=
  runCommand_pass perform (check_command_none.2 ⟨by simp [hkey], by simp [hmsg], hidx⟩)

theorem exec_sm4Sbox (s : State) :
    exec .sm4Sbox s = .next (completed { s with sout := 0#24 ++ sbox (s.sin.extractLsb' 0 8) }) := by
  rw [exec, execSm4Sbox, runCommand_of_unconditional .sm4Sbox rfl rfl rfl, sbox_sinByte_setWidth]

theorem exec_sm4Tau (s : State) : exec .sm4Tau s = .next (completed { s with sout := tauOf s.sin }) := by
  rw [exec, execSm4Tau, runCommand_of_unconditional .sm4Tau rfl rfl rfl, tau_eq_tauOf]

theorem exec_sm4L (s : State) : exec .sm4L s = .next (completed { s with sout := diffused s.sin }) := by
  rw [exec, execSm4L, runCommand_of_unconditional .sm4L rfl rfl rfl, sm4L_eq_diffused]

theorem exec_sm4Lk (s : State) : exec .sm4Lk s = .next (completed { s with sout := keyDiffused s.sin }) := by
  rw [exec, execSm4Lk, runCommand_of_unconditional .sm4Lk rfl rfl rfl, sm4Lk_eq_keyDiffused]

theorem exec_sm4T (s : State) : exec .sm4T s = .next (completed { s with sout := diffused (tauOf s.sin) }) := by
  rw [exec, execSm4T, runCommand_of_unconditional .sm4T rfl rfl rfl, sm4T_eq_diffused_tauOf]

theorem exec_sm4Tk (s : State) : exec .sm4Tk s = .next (completed { s with sout := keyDiffused (tauOf s.sin) }) := by
  rw [exec, execSm4Tk, runCommand_of_unconditional .sm4Tk rfl rfl rfl, sm4Tk_eq_keyDiffused_tauOf]

theorem exec_sm4Final (s : State) :
    exec .sm4Final s = .next (completed { s with dout := ⟨s.x.w3, s.x.w2, s.x.w1, s.x.w0⟩ }) := by
  rw [exec, execSm4Final, runCommand_of_unconditional .sm4Final rfl rfl rfl, revWords]

/-- SM4_SBOX for an operand and its known result. -/
theorem exec_sm4Sbox_of_sin {s : State} {x y : Word} (hx : s.sin = x) (hy : 0#24 ++ sbox (x.extractLsb' 0 8) = y) :
    exec .sm4Sbox s = .next (completed { s with sout := y }) := by
  rw [exec_sm4Sbox, hx, hy]

/-- Settles O12: the fixed results are table entries, read through `exec_sm4Sbox_of_sin`. -/
theorem sm4SboxResult : Obligations.Sm4SboxResult := by
  refine ⟨fun c => decode_eq_command_iff_of_idx_eq_zero rfl, exec_sm4Sbox, fun s hsin => ?_,
    fun s hsin => exec_sm4Sbox_of_sin hsin (by decide), fun s hsin => exec_sm4Sbox_of_sin hsin (by decide)⟩
  obtain hsin | hsin := hsin
  · exact exec_sm4Sbox_of_sin hsin (by decide)
  · exact exec_sm4Sbox_of_sin hsin (by decide)

/-- Settles O13: SM4_TAU has no check to fail; the fixed values are evaluated. -/
theorem sm4TauResult : Obligations.Sm4TauResult :=
  ⟨fun c => decode_eq_command_iff_of_idx_eq_zero rfl, exec_sm4Tau, by decide⟩

/-- Settles O14: SM4_L has no check to fail; the fixed values are evaluated. -/
theorem sm4LResult : Obligations.Sm4LResult :=
  ⟨fun c => decode_eq_command_iff_of_idx_eq_zero rfl, exec_sm4L, by decide⟩

/-- Settles O15: SM4_LK has no check to fail; the fixed values are evaluated. -/
theorem sm4LkResult : Obligations.Sm4LkResult :=
  ⟨fun c => decode_eq_command_iff_of_idx_eq_zero rfl, exec_sm4Lk, by decide⟩

/-- Settles O16: SM4_T has no check to fail; the fixed values are evaluated. -/
theorem sm4TResult : Obligations.Sm4TResult :=
  ⟨fun c => decode_eq_command_iff_of_idx_eq_zero rfl, exec_sm4T, by decide⟩

/-- Settles O17: SM4_TK has no check to fail; the fixed values are evaluated. -/
theorem sm4TkResult : Obligations.Sm4TkResult :=
  ⟨fun c => decode_eq_command_iff_of_idx_eq_zero rfl, exec_sm4Tk, by decide⟩

/-- Settles O22: the example is the general clause at its X. -/
theorem sm4FinalResult : Obligations.Sm4FinalResult := by
  refine ⟨fun c => decode_eq_command_iff_of_idx_eq_zero rfl, exec_sm4Final, fun s hx => ?_⟩
  rw [exec_sm4Final]
  simp only [hx]

end Sys2Proof.Proofs

/-! # The SM3 commands (44_sm3_commands.md): proofs of R280 to R282 and R284 -/

namespace Sys2Proof.Proofs

open Sys2Proof.Machine Sys2Proof.Claims

/-! ## The commands without a recurrence (R280 to R282) -/

theorem sm3P0_eq_p0Of (x : Word) : sm3P0 x = p0Of x := by
  simp only [sm3P0, p0Of, rol_eq_rotateLeft]

theorem sm3P1_eq_p1Of (x : Word) : sm3P1 x = p1Of x := by
  simp only [sm3P1, p1Of, rol_eq_rotateLeft]

theorem exec_sm3Init (s : State) : exec .sm3Init s = .next (completed { s with v := sm3IV }) := by
  rw [exec, execSm3Init, runCommand_of_unconditional .sm3Init rfl rfl rfl]

theorem exec_sm3P0 (s : State) : exec .sm3P0 s = .next (completed { s with sout := p0Of s.sin }) := by
  rw [exec, execSm3P0, runCommand_of_unconditional .sm3P0 rfl rfl rfl, sm3P0_eq_p0Of]

theorem exec_sm3P1 (s : State) : exec .sm3P1 s = .next (completed { s with sout := p1Of s.sin }) := by
  rw [exec, execSm3P1, runCommand_of_unconditional .sm3P1 rfl rfl rfl, sm3P1_eq_p1Of]

/-- Settles O23: SM3_INIT has no check to fail, and the eight words are the model's IV. -/
theorem sm3InitResult : Obligations.Sm3InitResult :=
  ⟨fun _ => decode_eq_command_iff_of_idx_eq_zero rfl, exec_sm3Init⟩

/-- Settles O24: SM3_P0 has no check to fail; the fixed values are evaluated. -/
theorem sm3P0Result : Obligations.Sm3P0Result :=
  ⟨fun _ => decode_eq_command_iff_of_idx_eq_zero rfl, exec_sm3P0, by decide⟩

/-- Settles O25: SM3_P1 has no check to fail; the fixed values are evaluated. -/
theorem sm3P1Result : Obligations.Sm3P1Result :=
  ⟨fun _ => decode_eq_command_iff_of_idx_eq_zero rfl, exec_sm3P1, by decide⟩

/-! ## The elements of a sequence given by a recurrence -/

section
variable (next : Nat → List Word → Word) (j : Nat) (r : List Word)

/-- Looking `k` places back from where `n` elements are formed is reading the longer sequence, oldest first. -/
theorem back_extend {n N k : Nat} (hn : n ≤ N) (hk : 0 < k) (hkn : k ≤ n + r.length) :
    back (extend next n j r) k = (extend next N j r).reverse.getD (n + r.length - k) 0 := by
  obtain ⟨m, rfl⟩ := Nat.exists_eq_add_of_le hn
  have hlen := extend_length next (n + m) j r
  rw [back, ← extend_drop next n m, List.getD_reverse _ (by omega)]
  simp only [List.getD_eq_getElem?_getD, List.getElem?_drop, hlen]
  congr 2
  omega

/-- A sequence starts with the elements it is given. -/
theorem extend_reverse_seed {N i : Nat} (hi : i < r.length) :
    (extend next N j r).reverse.getD i 0 = r.reverse.getD i 0 := by
  have h (M : Nat) := back_extend next j r (Nat.zero_le M) (k := r.length - i) (by omega) (by omega)
  rw [show 0 + r.length - (r.length - i) = i by omega] at h
  exact (h N).symm.trans (h 0)

/-- Every later element is formed from those before it. -/
theorem extend_reverse_new {N i : Nat} (hi : i < N) :
    (extend next N j r).reverse.getD (i + r.length) 0 = next (j + i) (extend next i j r) := by
  have h := back_extend next j r (n := i + 1) hi Nat.one_pos (by omega)
  rw [show i + 1 + r.length - 1 = i + r.length by omega, extend_last] at h
  exact h.symm

end

/-- A register file as the function of its index. -/
theorem ofFn_wordAt {n : Nat} (v : Vector Word n) : Vector.ofFn (fun j : Fin n => wordAt v j) = v := by
  ext i hi
  simp

@[simp] theorem wordAt_toFile {n : Nat} (l : List Word) (h : l.length = n) (i : Nat) :
    wordAt (toFile l h) i = l.getD i 0 := by
  simp [wordAt, toFile]

/-! ## SM3_EXPAND (R238 to R240, R284) -/

/-- W starts with the block (R238). -/
theorem wordAt_expandW_block (b : Vector Word 16) {j : Nat} (hj : j < 16) : wordAt (expandW b) j = b[j] := by
  rw [expandW, wordAt_toFile, extend_reverse_seed _ _ _ (by simpa using hj)]
  simp [hj]

/-- The words before W[i+16], as the expansion reads them. -/
theorem back_expand (b : Vector Word 16) {i k : Nat} (hi : i ≤ 52) (hk : 0 < k) (hk' : k ≤ 16) :
    back (extend expandStep i 16 b.toList.reverse) k = wordAt (expandW b) (i + 16 - k) := by
  have hlen : b.toList.reverse.length = 16 := by simp
  rw [expandW, wordAt_toFile, back_extend _ _ _ hi hk (by omega), hlen]

/-- W continues by the recurrence (R239). -/
theorem wordAt_expandW_recurrence (b : Vector Word 16) {j : Nat} (hj : 16 ≤ j) (hj' : j < 68) :
    let W := wordAt (expandW b)
    W j = p1Of (W (j - 16) ^^^ W (j - 9) ^^^ (W (j - 3)).rotateLeft 15) ^^^ (W (j - 13)).rotateLeft 7 ^^^ W (j - 6) := by
  obtain ⟨i, rfl⟩ := Nat.exists_eq_add_of_le' hj
  have hlen : b.toList.reverse.length = 16 := by simp
  have hnew : wordAt (expandW b) (i + 16) = expandStep (16 + i) (extend expandStep i 16 b.toList.reverse) := by
    rw [expandW, wordAt_toFile, ← extend_reverse_new expandStep 16 b.toList.reverse (N := 52) (by omega), hlen]
  have hback (k : Nat) := back_expand b (i := i) (k := k) (by omega)
  simp only [hnew, expandStep, hback, Nat.reduceLT, Nat.reduceLeDiff, Nat.le_refl, sm3P1_eq_p1Of, rol_eq_rotateLeft]

/-- WP[j] = W[j] ^ W[j+4] (R240). -/
theorem expandWP_eq_ofFn (w : Vector Word 68) :
    expandWP w = Vector.ofFn fun j : Fin 64 => wordAt w j ^^^ wordAt w (j + 4) := by
  ext j hj
  rw [← wordAt_lt _ _ hj, expandWP, wordAt_toFile, Vector.getElem_ofFn, wordAt_lt w j (by omega),
    wordAt_lt w (j + 4) (by omega)]
  simp [hj, Nat.add_comm 4 j]

theorem exec_sm3Expand (s : State) :
    exec .sm3Expand s = .next (completed { s with w := expandW s.b, wp := expandWP (expandW s.b) }) := by
  rw [exec, execSm3Expand, runCommand_of_unconditional .sm3Expand rfl rfl rfl]

theorem expandW_zero : expandW (Vector.replicate 16 0) = Vector.replicate 68 0 := by decide +kernel

theorem expandWP_zero : expandWP (Vector.replicate 68 0) = Vector.replicate 64 0 := by decide +kernel

/-- The example of R284: the expansion of the block of "abc". -/
theorem expand_abcBlock :
    (expandW abcBlock)[16] = 0x9092e200 ∧ (expandW abcBlock)[67] = 0xb99c0545 ∧
    (expandWP (expandW abcBlock))[0] = 0x61626380 ∧ (expandWP (expandW abcBlock))[63] = 0x49e260d5 := by decide +kernel

/-- Settles O27: the sequence W is the register file the command writes, read by index. -/
theorem sm3ExpandResult : Obligations.Sm3ExpandResult := by
  refine ⟨fun _ => decode_eq_command_iff_of_idx_eq_zero rfl, fun s => ⟨wordAt (expandW s.b), ?_, ?_, ?_⟩, fun s hb => ?_,
    fun s hb => ⟨_, exec_sm3Expand s, ?_⟩⟩
  · exact fun j => wordAt_expandW_block s.b
  · exact fun j => wordAt_expandW_recurrence s.b
  · rw [ofFn_wordAt, ← expandWP_eq_ofFn, exec_sm3Expand]
  · rw [exec_sm3Expand, hb, expandW_zero, expandWP_zero]
  · simpa only [completed, hb] using expand_abcBlock

end Sys2Proof.Proofs

/-! # The errors of the commands (60_exceptions.md): proof of R312 -/

namespace Sys2Proof.Proofs

open Sys2Proof.Machine Sys2Proof.Claims

/-! ## The engine's move (R133) -/

section
variable {s : State} {c : Word} {rest : List Event} (hp : s.pending = some c) (he : s.events = .engine :: rest)
include hp he

theorem step_engine_inFlight : step s = performWord c { s with events := rest } := by
  simp only [step_eq, he, takeEvent, engineStep, hp]

theorem step_engine_command {i : Instr} (hi : decode c = .command i) : step s = exec i { s with events := rest } := by
  rw [step_engine_inFlight hp he, performWord, hi]

/-- A command that fails its check completes with the error's code, and keeps every register but STATUS (R136). -/
theorem step_engine_error {i : Instr} (hi : decode c = .command i) {e : ErrCode}
    (h : check (.command i) { s with events := rest } = some e) :
    step s = .next (completedWith e.code { s with events := rest }) := by
  rw [step_engine_command hp he hi, exec_error h, completeError_eq_completedWith]

end

/-! ## The conditions of the check (R312), by command -/

theorem needsKey_iff {i : Instr} : needsKey i = true ↔ i = .sm4Enc ∨ i = .sm4Dec ∨ ∃ idx, i = .sm4Round idx := by
  cases i <;> simp [needsKey]

theorem readsMessage_iff {i : Instr} : readsMessage i = true ↔ i = .sm3Digest ∨ ∃ idx, i = .sm3Padblk idx := by
  cases i <;> simp [readsMessage]

theorem idxOutOfRange_eq_false_iff {i : Instr} {s : State} : idxOutOfRange i s = false ↔
    (∀ idx, i = .sm4Round idx → idx < 32) ∧ ∀ idx, i = .sm3Padblk idx → idx < blockCount s.msglen.toNat := by
  cases i <;> simp [idxOutOfRange]

/-- No command that reads the message needs round keys, so E_NOKEY never hides E_LEN. -/
theorem needsKey_eq_false_of_readsMessage {i : Instr} (h : readsMessage i = true) : needsKey i = false := by
  obtain rfl | ⟨idx, rfl⟩ := readsMessage_iff.1 h <;> rfl

theorem check_len {i : Instr} {s : State} (hi : readsMessage i = true) (hlen : s.config.msgBytes < s.msglen.toNat) :
    check (.command i) s = some .len := by
  simp [check, needsKey_eq_false_of_readsMessage hi, hi, hlen]

theorem check_sm3Padblk_range {idx : Nat} {s : State} (hlen : s.msglen.toNat ≤ s.config.msgBytes)
    (hidx : blockCount s.msglen.toNat ≤ idx) : check (.command (.sm3Padblk idx)) s = some .range := by
  simp [check, needsKey, idxOutOfRange, hlen.not_gt, hidx]

/-! ## A command that passes its check -/

/-- Where `perform` keeps ERR and ERRCODE, a command that passes its check keeps them: completion sets BUSY and DONE. -/
theorem runDecoded_keeps_error {d : Decoded} {perform : State → Result} {s t : State} (hpass : check d s = none)
    (hperform : ∀ u, perform s = .next u → u.status.err = s.status.err ∧ u.status.errcode = s.status.errcode)
    (h : runDecoded d perform s = .next t) : t.status.err = s.status.err ∧ t.status.errcode = s.status.errcode := by
  obtain ⟨e, he, -⟩ | ⟨-, u, hu, rfl⟩ := runDecoded_next h
  · cases hpass.symm.trans he
  · exact hperform u hu

/-- As `runDecoded_keeps_error`, for a command that only writes registers. -/
theorem runCommand_keeps_error {i : Instr} {perform : State → State} {s t : State} (hpass : check (.command i) s = none)
    (hperform : (perform s).status.err = s.status.err ∧ (perform s).status.errcode = s.status.errcode)
    (h : runCommand i perform s = .next t) : t.status.err = s.status.err ∧ t.status.errcode = s.status.errcode :=
  runDecoded_keeps_error hpass (fun u hu => by cases hu; exact hperform) h

/-- A command that passes its check leaves ERR and ERRCODE as they are: the only STATUS bit a `perform` writes is RKV. -/
theorem exec_keeps_error {i : Instr} {s t : State} (hpass : check (.command i) s = none) (h : exec i s = .next t) :
    t.status.err = s.status.err ∧ t.status.errcode = s.status.errcode := by
  cases i
  case sm3Padblk idx | sm3Digest =>
    rw [exec] at h
    refine runDecoded_keeps_error hpass (fun u hu => ?_) h
    dsimp only at hu
    split at hu
    · cases hu; exact ⟨rfl, rfl⟩
    · cases hu
  all_goals
    rw [exec] at h
    exact runCommand_keeps_error hpass ⟨by rfl, by rfl⟩ h

/-- Settles O8: each clause names the first condition of the check that holds, and the last one says that none does. -/
theorem errorsFollowThePriorityOrder : Obligations.ErrorsFollowThePriorityOrder := by
  intro s c rest hp he
  refine ⟨fun why hc => ?_, fun i hi => ⟨fun hkind hkey => ?_, fun hkind hlen => ?_, ?_, ?_,
    fun hkey hlen hround hpad t ht => ?_⟩⟩
  · rw [step_engine_inFlight hp he, performWord_illegal hc]
  · exact step_engine_error hp he hi (check_noKey (needsKey_iff.2 hkind) hkey)
  · exact step_engine_error hp he hi (check_len (readsMessage_iff.2 hkind) hlen)
  · rintro idx rfl hkey hidx
    exact step_engine_error hp he hi (check_sm4Round_range hkey hidx)
  · rintro idx rfl hlen hidx
    exact step_engine_error hp he hi (check_sm3Padblk_range hlen hidx)
  · have hpass : check (.command i) { s with events := rest } = none :=
      check_command_none.2 ⟨hkey ∘ needsKey_iff.1, hlen ∘ readsMessage_iff.1, idxOutOfRange_eq_false_iff.2 ⟨hround, hpad⟩⟩
    rw [step_engine_command hp he hi] at ht
    exact exec_keeps_error (s := { s with events := rest }) hpass ht

end Sys2Proof.Proofs

/-! # Words and commands (30_encoding.md): proofs of R100 to R105 and R110 -/

namespace Sys2Proof.Proofs

open Sys2Proof.Machine Sys2Proof.Claims

/-- The word of a well-formed command as a number: nothing of its index is dropped. -/
theorem toNat_encode {i : Instr} (hi : i.idx < 2 ^ 24) : (encode i).toNat = i.idx * 256 + i.opcode.toNat := by
  have hop := i.opcode.isLt
  rw [encode, BitVec.toNat_append, BitVec.toNat_ofNat, Nat.mod_eq_of_lt hi, ← Nat.shiftLeft_add_eq_or_of_lt hop,
    Nat.shiftLeft_eq]

/-- Settles O1: the word's number is that of the command, and only that command has it. -/
theorem decodeOfEncodeIsTheCommand : Obligations.DecodeOfEncodeIsTheCommand := by
  intro i hwf
  have hidx : i.idx < 2 ^ 24 := of_decide_eq_true hwf
  exact decode_eq_command_iff_toNat.2 ⟨hidx, toNat_encode hidx⟩

/-- Settles O2: the word and the encoding of its command are one number. -/
theorem encodeOfDecodeIsTheWord : Obligations.EncodeOfDecodeIsTheWord := by
  intro c i h
  obtain ⟨hidx, hc⟩ := decode_eq_command_iff_toNat.1 h
  exact ⟨decide_eq_true hidx, BitVec.eq_of_toNat_eq ((toNat_encode hidx).trans hc.symm)⟩

/-- Settles O5, by evaluation of the decoder at the spec's words. -/
theorem workedEncodingsDecode : Obligations.WorkedEncodingsDecode := by
  unfold Obligations.WorkedEncodingsDecode
  decide

/-- An OP that is neither an index operation nor reserved is that of a no-operand command. -/
theorem exists_row_of_op : ∀ op : BitVec 8, op ≠ 0x07 → op ≠ 0x13 →
    ¬ (0x0C ≤ op.toNat ∧ op.toNat ≤ 0x0F) → ¬ 0x17 ≤ op.toNat → ∃ p ∈ noOperandOps, p.1 = op := by decide

/-- No command has a reserved OP, and only an index operation has an index. -/
theorem fields_of_command (i : Instr) : ¬ (0x0C ≤ i.opcode.toNat ∧ i.opcode.toNat ≤ 0x0F) ∧ i.opcode.toNat < 0x17 ∧
    (i.opcode.toNat = 0x07 ∨ i.opcode.toNat = 0x13 ∨ i.idx = 0) := by
  cases i <;> simp [Instr.opcode, Instr.idx]

/-- The illegal words by their fields (R105). -/
theorem decode_illegal_iff_fields {c : Word} : (∃ why, decode c = .illegal why) ↔
    (0x0C ≤ c.toNat % 256 ∧ c.toNat % 256 ≤ 0x0F) ∨ 0x17 ≤ c.toNat % 256 ∨
      (c.toNat % 256 ≠ 0x07 ∧ c.toNat % 256 ≠ 0x13 ∧ c.toNat / 256 ≠ 0) := by
  simp only [decode_illegal_iff, ne_eq, decode_eq_command_iff, ← BitVec.toNat_inj, toNat_opField, toNat_idxField]
  constructor
  · intro hnone
    by_contra hlegal
    by_cases hround : c.toNat % 256 = 0x07
    · exact hnone (.sm4Round (c.toNat / 256)) ⟨hround, rfl⟩
    by_cases hpad : c.toNat % 256 = 0x13
    · exact hnone (.sm3Padblk (c.toNat / 256)) ⟨hpad, rfl⟩
    have hop := toNat_opField c
    obtain ⟨p, hp, hpop⟩ := exists_row_of_op (opField c) (fun h => hround (by rw [← hop, h]; rfl))
      (fun h => hpad (by rw [← hop, h]; rfl)) (by omega) (by omega)
    obtain ⟨hcode, hidx⟩ := opcode_and_idx_of_mem_noOperandOps p hp
    exact hnone p.2 ⟨by rw [hcode, hpop, hop], by omega⟩
  · rintro h i ⟨hop, hidx⟩
    have := fields_of_command i
    omega

end Sys2Proof.Proofs

/-! # The engine's move, whether its event is next or no event is left (40_command_cycle.md) -/

namespace Sys2Proof.Proofs

open Sys2Proof.Machine Sys2Proof.Claims

/-- The engine has the next move: by its event, or because none is left (log 2). -/
def EngineNext (s : State) : Prop := (∃ rest, s.events = .engine :: rest) ∨ s.events = []

/-- The state with its oldest event taken off. -/
def popped (s : State) : State := { s with events := s.events.tail }

theorem popped_of_events {s : State} {e : Event} {rest : List Event} (he : s.events = e :: rest) :
    popped s = { s with events := rest } := by
  rw [popped, he, List.tail_cons]

theorem popped_of_nil {s : State} (he : s.events = []) : popped s = s := by
  obtain ⟨⟩ := s
  cases he
  rfl

theorem step_of_engineNext {s : State} (h : EngineNext s) : step s = engineStep (popped s) := by
  obtain ⟨rest, he⟩ | he := h
  · rw [popped_of_events he]
    simp only [step_eq, he, takeEvent]
  · rw [popped_of_nil he]
    simp only [step_eq, he]

/-- The engine's move performs the word in flight. -/
theorem step_performs {s : State} {c : Word} (h : EngineNext s) (hp : s.pending = some c) :
    step s = performWord c (popped s) := by
  rw [step_of_engineNext h]
  have hpop : (popped s).pending = some c := hp
  simp only [engineStep, hpop]

/-- As `step_performs`, for a word that decodes. -/
theorem step_execs {s : State} {c : Word} {i : Instr} (h : EngineNext s) (hp : s.pending = some c)
    (hi : decode c = .command i) : step s = exec i (popped s) := by
  rw [step_performs h hp, performWord, hi]

/-- A statement about the engine's move, said for each of its two occasions. -/
theorem forall_engineNext {s : State} {P : State → Prop} (h : EngineNext s → P (popped s)) :
    (∀ rest, s.events = .engine :: rest → P { s with events := rest }) ∧ (s.events = [] → P s) :=
  ⟨fun rest he => popped_of_events he ▸ h (.inl ⟨rest, he⟩), fun he => popped_of_nil he ▸ h (.inr he)⟩

/-- Settles O4: the fields decide which words are illegal, and the engine completes one with E_ILLEGAL. -/
theorem illegalWordCompletesWithEIllegal : Obligations.IllegalWordCompletesWithEIllegal := by
  refine ⟨fun c => decode_illegal_iff_fields, fun s c why hp hc => ?_⟩
  refine forall_engineNext (P := fun u => step s = .next (completedWith 0x01 u)) fun hnext => ?_
  rw [step_performs hnext hp, performWord_illegal hc]

/-- Settles O6: both occasions of the engine's move are `step_execs`. -/
theorem stepPerformsTheDecodedCommand : Obligations.StepPerformsTheDecodedCommand := by
  intro s c i hp hi
  exact forall_engineNext (P := fun u => step s = exec i u) fun hnext => step_execs hnext hp hi

/-- Settles O59: with nothing in flight the engine's move only takes its event off. -/
theorem idleCoreKeepsItsState : Obligations.IdleCoreKeepsItsState := by
  intro s hp
  refine (forall_engineNext (P := fun u => step s = .next u) fun hnext => ?_).symm
  rw [step_of_engineNext hnext]
  have hpop : (popped s).pending = none := hp
  simp only [engineStep, hpop]

end Sys2Proof.Proofs

/-! # The register map and the host's accesses to it (20_memory.md R71 to R78; 70_reset_and_hazards.md R345) -/

namespace Sys2Proof.Proofs

open Sys2Proof.Machine Sys2Proof.Claims

/-! ## What stands at an offset (R71) -/

/-- The map names a register only at the register's own offset. -/
theorem offset_of_locate_reg {c : Config} {off : BitVec 17} {r : Reg} (ha : off.toNat % 4 = 0)
    (h : locate c off = .reg r) : off.toNat = r.offset := by
  unfold locate at h
  split at h
  · next q hq => cases h; exact offset_of_regAt ha r hq
  · split at h <;> cases h

/-- The MSG window is the offsets from 0x10000 to the end of the buffer. -/
theorem locate_eq_msg_iff {c : Config} {off : BitVec 17} {a : Nat} :
    locate c off = .msg a ↔ off.toNat = 0x10000 + a ∧ a < c.msgBytes := by
  refine ⟨fun h => ?_, fun ⟨hoff, ha⟩ => locate_of_msg hoff ha⟩
  unfold locate at h
  split at h
  · cases h
  · split at h
    · next hwindow =>
      obtain rfl := Place.msg.inj h
      unfold msgBase at hwindow ⊢
      omega
    · cases h

/-- Below 0x500, an offset that is not reserved is that of a register. -/
theorem exists_reg_of_not_reserved {msgBytes n : Nat} (ha : n % 4 = 0) (hn : n < 0x500)
    (h : ¬ reservedOffset msgBytes n) : ∃ r : Reg, n = r.offset := by
  by_cases hro : readOnlyOffset n
  · obtain ⟨r, hr, -⟩ := exists_reg_of_readOnlyOffset ha hro
    exact ⟨r, hr⟩
  have hwritable : n = 0x000 ∨ (0x010 ≤ n ∧ n ≤ 0x01C) ∨ (0x020 ≤ n ∧ n ≤ 0x02C) ∨ (0x040 ≤ n ∧ n ≤ 0x04C) ∨
      n = 0x050 ∨ n = 0x060 ∨ (0x100 ≤ n ∧ n ≤ 0x11C) ∨ (0x140 ≤ n ∧ n ≤ 0x17C) := by
    unfold readOnlyOffset at hro
    unfold reservedOffset at h
    omega
  obtain h | h | h | h | h | h | h | h := hwritable
  · exact ⟨.cmd, h⟩
  · exact ⟨.key ⟨(n - 0x010) / 4, by omega⟩, by simp only [Reg.offset]; omega⟩
  · exact ⟨.din ⟨(n - 0x020) / 4, by omega⟩, by simp only [Reg.offset]; omega⟩
  · exact ⟨.x ⟨(n - 0x040) / 4, by omega⟩, by simp only [Reg.offset]; omega⟩
  · exact ⟨.sin, h⟩
  · exact ⟨.msglen, h⟩
  · exact ⟨.v ⟨(n - 0x100) / 4, by omega⟩, by simp only [Reg.offset]; omega⟩
  · exact ⟨.b ⟨(n - 0x140) / 4, by omega⟩, by simp only [Reg.offset]; omega⟩

/-- What the map calls reserved lies in a gap of R71. -/
theorem reservedOffset_of_locate {c : Config} {off : BitVec 17} (ha : off.toNat % 4 = 0)
    (h : locate c off = .reserved) : reservedOffset c.msgBytes off.toNat := by
  by_contra hres
  by_cases hlow : off.toNat < 0x500
  · obtain ⟨r, hr⟩ := exists_reg_of_not_reserved ha hlow hres
    cases (locate_of_offset hr).symm.trans h
  · have hwindow : 0x10000 ≤ off.toNat ∧ off.toNat < 0x10000 + c.msgBytes := by
      unfold reservedOffset at hres
      omega
    cases (locate_eq_msg_iff.2 ⟨(Nat.add_sub_cancel' hwindow.1).symm, by omega⟩).symm.trans h

/-- Settles O52: a register by its offset and back, the MSG window, and the gaps that are left. -/
theorem registerMapIsOneToOne : Obligations.RegisterMapIsOneToOne := by
  refine fun cfg => ⟨fun r => locate_of_offset ?_, fun off ha => ⟨fun r => offset_of_locate_reg ha,
    fun a => locate_eq_msg_iff, reservedOffset_of_locate ha, locate_of_reservedOffset ha⟩⟩
  have := (offset_lt r).1
  rw [BitVec.toNat_ofNat]
  omega

/-- KEY is the only register from 0x010 to 0x01C. -/
theorem locate_eq_key_iff {c : Config} {off : BitVec 17} (ha : off.toNat % 4 = 0) :
    (∃ i, locate c off = .reg (.key i)) ↔ 0x010 ≤ off.toNat ∧ off.toNat ≤ 0x01C := by
  constructor
  · rintro ⟨i, hi⟩
    have hoff := offset_of_locate_reg ha hi
    simp only [Reg.offset] at hoff
    omega
  · rintro ⟨hlo, hhi⟩
    exact ⟨⟨(off.toNat - 0x010) / 4, by omega⟩, locate_of_offset (by simp only [Reg.offset]; omega)⟩

/-! ## Register accesses of an idle core -/

section
variable {s : State} {off : BitVec 17} {rest : List Event} {r : Reg} (hp : s.pending = none)
include hp

theorem step_rd_reg (he : s.events = rd off :: rest) (hoff : off.toNat = r.offset) :
    step s = .next { s with events := rest, rdata := some (readReg s r) } := by
  rw [step_rd_idle hp (hoff ▸ (offset_lt r).2) he, locate_of_offset hoff]
  exact congrArg (fun v => Host.Outcome.next { s with events := rest, rdata := some v }) (readReg_withPort s rest s.rdata r)

theorem step_wr_reg {val : Word} (he : s.events = wr off val :: rest) (hoff : off.toNat = r.offset) :
    step s = .next (writeReg { s with events := rest } r val) := by
  rw [step_wr_idle hp (hoff ▸ (offset_lt r).2) he, locate_of_offset hoff, hostWrite]

end

/-- Settles O46: each clause is the read of the register that stands at the offset. -/
theorem hostReadsTheRegistersAtTheirOffsets : Obligations.HostReadsTheRegistersAtTheirOffsets := by
  intro s off rest hp he
  have read (r : Reg) := step_rd_reg (r := r) hp he
  exact ⟨read .cmd, read (.key 0), read (.key 1), read (.key 2), read (.key 3), read (.din 0), read (.din 1),
    read (.din 2), read (.din 3), read (.dout 0), read (.dout 1), read (.dout 2), read (.dout 3), read (.x 0),
    read (.x 1), read (.x 2), read (.x 3), read .sin, read .sout, read .msglen, read .nblk, fun i h => read (.rk ⟨i, h⟩),
    fun i h => read (.v ⟨i, h⟩), fun i h => read (.b ⟨i, h⟩), fun i h => read (.w ⟨i, h⟩), fun i h => read (.wp ⟨i, h⟩)⟩

/-- Settles O48: each clause is the write to the register that stands at the offset. -/
theorem hostWritesTheRegistersAtTheirOffsets : Obligations.HostWritesTheRegistersAtTheirOffsets := by
  intro s off val rest hp he
  have write (r : Reg) := step_wr_reg (r := r) hp he
  exact ⟨write (.key 0), write (.key 1), write (.key 2), write (.key 3), write (.din 0), write (.din 1), write (.din 2),
    write (.din 3), write (.x 0), write (.x 1), write (.x 2), write (.x 3), write .sin, write .msglen,
    fun i h => write (.v ⟨i, h⟩), fun i h => write (.b ⟨i, h⟩)⟩

/-! ## A word of the MSG window -/

/-- The bytes of a word, concatenated, are the word. -/
theorem append_bytes (v : Word) :
    v.extractLsb' 24 8 ++ v.extractLsb' 16 8 ++ v.extractLsb' 8 8 ++ v.extractLsb' 0 8 = v := by
  iterate 3 rw [BitVec.extractLsb'_append_extractLsb'_eq_extractLsb' (by rfl)]
  rw [BitVec.extractLsb'_eq_self]

/-- A stored word reads back. -/
theorem readWord_writeWord (m : Memory) (a : Nat) (v : Word) : (m.writeWord a v).readWord a = some v := by
  have byte {k : Nat} (hk : k < 4) := read_writeWord_byte m a v hk
  exact (readWord_of_read (byte (k := 0) (by decide)) (byte (k := 1) (by decide)) (byte (k := 2) (by decide))
    (byte (k := 3) (by decide))).trans (congrArg some (append_bytes v))

/-- Settles O51: the read finds the word where `readWord_writeWord` says. -/
theorem msgReadAfterWriteGivesTheWord : Obligations.MsgReadAfterWriteGivesTheWord := by
  intro s rest off val hp ha hlo hhi he
  have hloc : locate s.config off = .msg (off.toNat - 0x10000) := locate_eq_msg_iff.2 ⟨by omega, by omega⟩
  let t := { s with events := rd off :: rest, msg := s.msg.writeWord (off.toNat - 0x10000) val }
  refine ⟨t, { t with events := rest, rdata := some val }, ?_, ?_, rfl, rfl⟩
  · rw [step_wr_idle hp ha he, hloc, hostWrite]
  · rw [step_rd_idle (s := t) hp ha rfl, hloc, hostRead, readWord_writeWord]

/-! ## Accesses that fault, and STATUS -/

/-- Settles O42: size and alignment are judged before anything else. -/
theorem unsupportedAccessIsHostAccess : Obligations.UnsupportedAccessIsHostAccess := by
  intro s rest off size val hbad
  have hrefused : acceptedAccess off size = false := by
    simp only [acceptedAccess, Bool.and_eq_false_iff, beq_eq_false_iff_ne]
    exact hbad
  refine ⟨fun he => ?_, fun he => ?_⟩ <;> simp [step_eq, he, takeEvent, hostStep, hrefused]

/-- STATUS may always be read, and answers its word. -/
theorem step_rd_status {s : State} {rest : List Event} (he : s.events = rd 0x004 :: rest) :
    step s = .next { s with events := rest, rdata := some (statusWord s.status) } := by
  have hloc : locate s.config 4#17 = .reg .status := locate_of_offset rfl
  simp [step_eq, he, rd, takeEvent, hostStep, acceptedAccess, hloc, hostRead, readReg]

/-- Any other supported read is a hazard while a command is in flight (R345). -/
theorem step_rd_inFlight {s : State} {off : BitVec 17} {rest : List Event} (hp : s.pending ≠ none)
    (ha : off.toNat % 4 = 0) (hoff : off ≠ 0x004) (he : s.events = rd off :: rest) : step s = .fault .hazardBusy := by
  have hloc : locate s.config off ≠ .reg .status := fun h =>
    hoff (BitVec.eq_of_toNat_eq (offset_of_locate_reg ha h))
  simp [step_eq, he, rd, takeEvent, hostStep, acceptedAccess, ha, Option.isSome_iff_ne_none, hp, hloc]

/-- Settles O43: STATUS is the one exception to the hazard rule, and it stands at 0x004 alone. -/
theorem onlyStatusMayBeReadInFlight : Obligations.OnlyStatusMayBeReadInFlight := by
  intro s rest off val hp ha
  refine ⟨?_, fun he hoff => step_rd_inFlight hp ha hoff he, step_wr_inFlight hp ha⟩
  rintro he rfl
  exact step_rd_status he

/-- The fields of the STATUS word (10_state.md R33). -/
theorem statusWord_fields (st : Status) :
    (statusWord st).getLsbD 0 = st.busy ∧ (statusWord st).getLsbD 1 = st.done ∧ (statusWord st).getLsbD 2 = st.err ∧
    (statusWord st).getLsbD 3 = st.rkv ∧ (statusWord st).extractLsb' 4 4 = 0 ∧
    (statusWord st).extractLsb' 8 8 = st.errcode ∧ (statusWord st).extractLsb' 16 16 = 0 := by
  rw [statusWord]
  refine ⟨?_, ?_, ?_, ?_, ?_, ?_, ?_⟩
  · rw [BitVec.getLsbD_append]; simp
  · iterate 2 rw [BitVec.getLsbD_append]
    simp
  · iterate 3 rw [BitVec.getLsbD_append]
    simp
  · iterate 4 rw [BitVec.getLsbD_append]
    simp
  · iterate 4 rw [BitVec.extractLsb'_append_eq_of_le (by decide)]
    exact BitVec.extractLsb'_append_eq_right
  · iterate 5 rw [BitVec.extractLsb'_append_eq_of_le (by decide)]
    exact BitVec.extractLsb'_append_eq_right
  · iterate 6 rw [BitVec.extractLsb'_append_eq_of_le (by decide)]
    exact BitVec.extractLsb'_eq_self

/-- Settles O44: the read answers the word of `statusWord_fields`, and STATUS is read-only. -/
theorem statusWordHasItsFields : Obligations.StatusWordHasItsFields := by
  refine ⟨fun s rest he => ⟨statusWord s.status, step_rd_status he, statusWord_fields s.status⟩,
    fun s rest val hp he => step_wr_reg (r := .status) hp he rfl, fun _ => ?_⟩
  exact (by decide : statusWord Status.reset = 0)

end Sys2Proof.Proofs

/-! # What a command does, said once (40_command_cycle.md R133; 30_encoding.md R103, column "writes") -/

namespace Sys2Proof.Proofs

open Sys2Proof.Machine Sys2Proof.Claims

/-! ## A command as its effect between the check and the completion -/

/-- The loop of SM3_DIGEST, from the registers it finds (44_sm3_commands.md R286). -/
def digestRegs (s : State) : DigestRegs :=
  (List.range (blockCount s.msglen.toNat)).foldl (digestStep (msgBytesOf s) s.msglen.toNat) ⟨sm3IV, s.b, s.w, s.wp⟩

/-- What a command that passes its check writes. -/
def effect (i : Instr) (s : State) : State :=
  match i with
  | .nop => s
  | .sm4Sbox => { s with sout := (sbox (sinByte s)).setWidth 32 }
  | .sm4Tau => { s with sout := tau s.sin }
  | .sm4L => { s with sout := sm4L s.sin }
  | .sm4Lk => { s with sout := sm4Lk s.sin }
  | .sm4T => { s with sout := sm4T s.sin }
  | .sm4Tk => { s with sout := sm4Tk s.sin }
  | .sm4Round idx => { s with x := sm4Round s.x (roundKey s idx) }
  | .sm4Keyexp => { s with rk := keyExpand s.key, status := { s.status with rkv := true } }
  | .sm4Enc => { s with x := crypt s.din s.rk, dout := revWords (crypt s.din s.rk) }
  | .sm4Dec => { s with x := crypt s.din (reverseKeys s.rk), dout := revWords (crypt s.din (reverseKeys s.rk)) }
  | .sm4Final => { s with dout := revWords s.x }
  | .sm3Init => { s with v := sm3IV }
  | .sm3P0 => { s with sout := sm3P0 s.sin }
  | .sm3P1 => { s with sout := sm3P1 s.sin }
  | .sm3Padblk idx => { s with b := padBlock (msgBytesOf s) s.msglen.toNat idx }
  | .sm3Expand => { s with w := expandW s.b, wp := expandWP (expandW s.b) }
  | .sm3Compress => { s with v := compress s.v s.w s.wp }
  | .sm3Digest => { s with v := (digestRegs s).v, b := (digestRegs s).b, w := (digestRegs s).w, wp := (digestRegs s).wp }

/-- Whether the message bytes that a command reads are marked written (20_memory.md R77). -/
def messageWritten (i : Instr) (s : State) : Bool :=
  match i with
  | .sm3Padblk idx => s.msg.written (64 * idx) (min (64 * idx + 64) s.msglen.toNat)
  | .sm3Digest => s.msg.written 0 s.msglen.toNat
  | _ => true

/-- Every command is the cycle of R133 around its effect. -/
theorem exec_eq_runDecoded (i : Instr) (s : State) :
    exec i s = runDecoded (.command i)
      (fun s => if messageWritten i s then .next (effect i s) else .fault .unwrittenMsg) s := by
  cases i <;> rfl

/-- A command that passes its check and finds its message written completes with its effect. -/
theorem exec_of_pass {i : Instr} {s : State} (hcheck : check (.command i) s = none) (hmsg : messageWritten i s = true) :
    exec i s = .next (completed (effect i s)) := by
  rw [exec_eq_runDecoded]
  exact runDecoded_pass hcheck (if_pos hmsg)

theorem exec_of_unwritten {i : Instr} {s : State} (hcheck : check (.command i) s = none)
    (hmsg : messageWritten i s = false) : exec i s = .fault .unwrittenMsg := by
  rw [exec_eq_runDecoded]
  exact runDecoded_fault hcheck (if_neg (by simp [hmsg]))

/-- How a command ends: in the error of its check, in its effect, or at an unwritten message byte. -/
theorem exec_cases (i : Instr) (s : State) :
    (∃ e, check (.command i) s = some e ∧ exec i s = .next (completeError e s)) ∨
    (check (.command i) s = none ∧ messageWritten i s = true ∧ exec i s = .next (complete (effect i s))) ∨
    (check (.command i) s = none ∧ messageWritten i s = false ∧ exec i s = .fault .unwrittenMsg) := by
  cases hcheck : check (.command i) s with
  | some e => exact .inl ⟨e, rfl, exec_error hcheck⟩
  | none =>
    cases hmsg : messageWritten i s with
    | true => exact .inr (.inl ⟨rfl, rfl, exec_of_pass hcheck hmsg⟩)
    | false => exact .inr (.inr ⟨rfl, rfl, exec_of_unwritten hcheck hmsg⟩)

/-- As `exec_cases`, for a command that completes. -/
theorem exec_next {i : Instr} {s t : State} (h : exec i s = .next t) :
    (∃ e, check (.command i) s = some e ∧ t = completeError e s) ∨
    (check (.command i) s = none ∧ t = complete (effect i s)) := by
  obtain ⟨e, hcheck, he⟩ | ⟨hcheck, -, he⟩ | ⟨-, -, he⟩ := exec_cases i s <;> cases h.symm.trans he
  · exact .inl ⟨e, hcheck, rfl⟩
  · exact .inr ⟨hcheck, rfl⟩

/-! ## Frames (10_state.md R30, column "written by") -/

section
variable (i : Instr) (s : State)

@[simp] theorem effect_config : (effect i s).config = s.config := by cases i <;> simp only [effect]
@[simp] theorem effect_events : (effect i s).events = s.events := by cases i <;> simp only [effect]
@[simp] theorem effect_rdata : (effect i s).rdata = s.rdata := by cases i <;> simp only [effect]
@[simp] theorem effect_cmd : (effect i s).cmd = s.cmd := by cases i <;> simp only [effect]
@[simp] theorem effect_pending : (effect i s).pending = s.pending := by cases i <;> simp only [effect]
@[simp] theorem effect_key : (effect i s).key = s.key := by cases i <;> simp only [effect]
@[simp] theorem effect_din : (effect i s).din = s.din := by cases i <;> simp only [effect]
@[simp] theorem effect_sin : (effect i s).sin = s.sin := by cases i <;> simp only [effect]
@[simp] theorem effect_msglen : (effect i s).msglen = s.msglen := by cases i <;> simp only [effect]
@[simp] theorem effect_msg : (effect i s).msg = s.msg := by cases i <;> simp only [effect]

end

/-- RK and STATUS are the effect of SM4_KEYEXP alone. -/
theorem effect_rk_status {i : Instr} (hi : i ≠ .sm4Keyexp) (s : State) :
    (effect i s).rk = s.rk ∧ (effect i s).status = s.status := by
  cases i
  case sm4Keyexp => exact absurd rfl hi
  all_goals exact ⟨by simp only [effect], by simp only [effect]⟩

/-- W and WP are the effect of SM3_EXPAND and SM3_DIGEST alone. -/
theorem effect_w_wp {i : Instr} (hexpand : i ≠ .sm3Expand) (hdigest : i ≠ .sm3Digest) (s : State) :
    (effect i s).w = s.w ∧ (effect i s).wp = s.wp := by
  cases i
  case sm3Expand => exact absurd rfl hexpand
  case sm3Digest => exact absurd rfl hdigest
  all_goals exact ⟨by simp only [effect], by simp only [effect]⟩

/-- Settles O9: neither an error nor the effect of any command writes one of these. -/
theorem commandsLeaveTheHostsRegisters : Obligations.CommandsLeaveTheHostsRegisters := by
  intro i s t h
  obtain ⟨e, -, rfl⟩ | ⟨-, rfl⟩ := exec_next h <;> simp

/-- Settles O10: an error writes STATUS alone, and each effect its own registers. -/
theorem commandsWriteOnlyTheirRegisters : Obligations.CommandsWriteOnlyTheirRegisters := by
  intro i s t h
  obtain ⟨e, -, rfl⟩ | ⟨-, rfl⟩ := exec_next h
  · simp
  · cases i <;> simp [effect]

/-! ## Completion (R134, R135) -/

/-- A range that is not all written has an unwritten byte. -/
theorem written_eq_false_iff {m : Memory} {lo hi : Nat} :
    m.written lo hi = false ↔ ∃ p, lo ≤ p ∧ p < hi ∧ m.read p = none := by
  rw [← Bool.not_eq_true, Memory.written_iff]
  simp

/-- Only the commands that read the message can find a byte of it unwritten. -/
theorem unwritten_of_messageWritten_eq_false {i : Instr} {s : State} (h : messageWritten i s = false) :
    readsMessage i = true ∧ ∃ p, p < s.msglen.toNat ∧ s.msg.read p = none := by
  cases i
  case sm3Padblk idx =>
    obtain ⟨p, -, hp, hread⟩ := written_eq_false_iff.1 h
    exact ⟨rfl, p, by omega, hread⟩
  case sm3Digest =>
    obtain ⟨p, -, hp, hread⟩ := written_eq_false_iff.1 h
    exact ⟨rfl, p, hp, hread⟩
  all_goals cases h

/-- Settles O60: a command ends without a fault but at an unwritten byte of its message. -/
theorem engineMoveCompletesTheCommand : Obligations.EngineMoveCompletesTheCommand := by
  intro s c rest hp he
  cases hc : decode c with
  | illegal why => exact .inl ⟨_, (step_engine_inFlight hp he).trans (performWord_illegal hc _), rfl, rfl, rfl, rfl⟩
  | command i =>
    rw [step_engine_command hp he hc]
    obtain ⟨e, -, hexec⟩ | ⟨-, -, hexec⟩ | ⟨-, hmsg, hexec⟩ := exec_cases i { s with events := rest }
    · exact .inl ⟨_, hexec, rfl, rfl, rfl, rfl⟩
    · exact .inl ⟨_, hexec, rfl, rfl, rfl, effect_events i _⟩
    · obtain ⟨hreads, hunwritten⟩ := unwritten_of_messageWritten_eq_false hmsg
      refine .inr ⟨hexec, ?_, hunwritten⟩
      simpa using readsMessage_iff.1 hreads

end Sys2Proof.Proofs

/-! # The whole machine: what a step can do, and what every step keeps -/

namespace Sys2Proof.Proofs

open Sys2Proof.Machine Sys2Proof.Claims

/-! ## The four ways a step ends -/

/-- The step from `s` to `t` by its move: the reset input's, a host's read or write, or the engine's. -/
inductive Moved (s t : State) : Prop
  | reset (rest : List Event) (he : s.events = .reset :: rest) (ht : t = takeReset { s with events := rest })
  | read (off : BitVec 17) (rest : List Event) (v : Word) (he : s.events = rd off :: rest)
      (ht : t = { s with events := rest, rdata := some v })
  | write (off : BitVec 17) (val : Word) (rest : List Event) (he : s.events = wr off val :: rest)
      (hoff : off.toNat % 4 = 0) (hp : s.pending = none)
      (ht : hostWrite { s with events := rest } val (locate s.config off) = .next t)
  | engine (hnext : EngineNext s) (ht : engineStep (popped s) = .next t)

theorem moved_of_step {s t : State} (h : step s = .next t) : Moved s t := by
  cases he : s.events with
  | nil => exact .engine (.inr he) (step_of_engineNext (.inr he) ▸ h)
  | cons e rest =>
    cases e with
    | engine => exact .engine (.inl ⟨rest, he⟩) (step_of_engineNext (.inl ⟨rest, he⟩) ▸ h)
    | reset =>
      refine .reset rest he ?_
      simpa [step_eq, he, takeEvent] using h.symm
    | host tr =>
      have hstep : hostStep tr { s with events := rest } = .next t := by simpa [step_eq, he, takeEvent] using h
      obtain ⟨off, v, rfl, -, ht⟩ | ⟨off, val, rfl, hoff, hp, ht⟩ := hostStep_next hstep
      · exact .read off rest v he ht
      · exact .write off val rest he hoff hp ht

/-- The engine's move with nothing in flight keeps the state; else it completes with an error or with the effect. -/
theorem engineStep_next {s t : State} (h : engineStep s = .next t) :
    (s.pending = none ∧ t = s) ∨ ∃ c, s.pending = some c ∧
      ((∃ e, t = completeError e s) ∨ ∃ i, decode c = .command i ∧ t = complete (effect i s)) := by
  cases hp : s.pending with
  | none =>
    simp only [engineStep, hp] at h
    exact .inl ⟨rfl, by simpa using h.symm⟩
  | some c =>
    simp only [engineStep, hp] at h
    refine .inr ⟨c, rfl, ?_⟩
    cases hc : decode c with
    | illegal why =>
      rw [performWord_illegal hc] at h
      exact .inl ⟨.illegal, (Host.Outcome.next.inj h).symm⟩
    | command i =>
      rw [performWord, hc] at h
      obtain ⟨e, -, ht⟩ | ⟨-, ht⟩ := exec_next h
      · exact .inl ⟨e, ht⟩
      · exact .inr ⟨i, rfl, ht⟩

/-! ## The invariant (Safety.lean) -/

/-- What the invariant speaks of. -/
def invariantView (s : State) : Config × Word × Option Word × Status × Block128 × Vector Word 32 × Memory :=
  (s.config, s.cmd, s.pending, s.status, s.key, s.rk, s.msg)

/-- The invariant does not see the other registers, the events or the port. -/
theorem coherent_congr {s t : State} (h : Coherent s) (hview : invariantView t = invariantView s) : Coherent t := by
  simp only [invariantView, Prod.mk.injEq] at hview
  obtain ⟨hconfig, hcmd, hpending, hstatus, hkey, hrk, hmsg⟩ := hview
  obtain ⟨h1, h2, h3, h4, h5, h6, h7, h8, h9⟩ := h
  constructor <;> simp only [hconfig, hcmd, hpending, hstatus, hkey, hrk, hmsg] <;> assumption

theorem coherent_resetOf (cfg : Config) : Coherent (.resetOf cfg) where
  busy_iff_pending := rfl
  not_busy_and_done := nofun
  err_iff_code := by simp [State.resetOf, Status.reset]
  err_only_done := nofun
  code_not_reserved := by simp [State.resetOf, Status.reset]
  rkv_keys := nofun
  pending_is_cmd := nofun
  msg_wf := .nil
  msg_within := nofun

/-- Settles O54: STATUS is 0 after reset, so no clause of the invariant has anything to hold of RK or ERRCODE. -/
theorem coherentAfterReset : Obligations.CoherentAfterReset := ⟨coherent_resetOf, coherent_resetOf .standard⟩

theorem coherent_takeReset (s : State) : Coherent (takeReset s) := coherent_congr (coherent_resetOf s.config) rfl

/-- Issue sets BUSY and clears DONE, ERR and ERRCODE together (R132). -/
theorem coherent_issue {s : State} (h : Coherent s) (c : Word) : Coherent (issue c s) where
  busy_iff_pending := rfl
  not_busy_and_done := nofun
  err_iff_code := by simp
  err_only_done := nofun
  code_not_reserved := Nat.zero_le 4
  rkv_keys := h.rkv_keys
  pending_is_cmd := fun _ => Option.some.inj
  msg_wf := h.msg_wf
  msg_within := h.msg_within

/-- Completion clears BUSY and sets DONE together (R134). -/
theorem coherent_complete {s : State} (h : Coherent s) : Coherent (complete s) where
  busy_iff_pending := rfl
  not_busy_and_done := nofun
  err_iff_code := h.err_iff_code
  err_only_done := fun _ => rfl
  code_not_reserved := h.code_not_reserved
  rkv_keys := h.rkv_keys
  pending_is_cmd := nofun
  msg_wf := h.msg_wf
  msg_within := h.msg_within

/-- The codes of R311 are 0x01 to 0x04. -/
theorem code_bounds (e : ErrCode) : e.code ≠ 0 ∧ e.code.toNat ≤ 4 := by cases e <;> decide

theorem coherent_completeError {s : State} (h : Coherent s) (e : ErrCode) : Coherent (completeError e s) where
  busy_iff_pending := rfl
  not_busy_and_done := nofun
  err_iff_code := iff_of_true rfl (code_bounds e).1
  err_only_done := fun _ => rfl
  code_not_reserved := (code_bounds e).2
  rkv_keys := h.rkv_keys
  pending_is_cmd := nofun
  msg_wf := h.msg_wf
  msg_within := h.msg_within

/-- SM4_KEYEXP makes RK the expansion of KEY as it sets RKV; no other effect touches what the invariant speaks of. -/
theorem coherent_effect {s : State} (h : Coherent s) (i : Instr) : Coherent (effect i s) := by
  by_cases hi : i = .sm4Keyexp
  · subst hi
    exact { h with rkv_keys := fun _ => rfl }
  · obtain ⟨hrk, hstatus⟩ := effect_rk_status hi s
    exact coherent_congr h (by simp [invariantView, hrk, hstatus])

/-- CMD issues a command, and KEY gives up RKV with the old key; the other registers are not the invariant's. -/
theorem coherent_writeReg {s : State} (h : Coherent s) (r : Reg) (val : Word) : Coherent (writeReg s r val) := by
  cases r
  case cmd => exact coherent_issue h val
  case key i => exact { h with rkv_keys := nofun }
  all_goals exact coherent_congr h rfl

/-- A write in the MSG window stays in the buffer: its size and the offset are both multiples of 4. -/
theorem coherent_writeWord {s : State} (h : Coherent s) {a : Nat} (ha : a % 4 = 0) (hsize : a < s.config.msgBytes)
    (val : Word) : Coherent { s with msg := s.msg.writeWord a val } := by
  have hbound := (msgBytes_bounds s.config).1
  exact { h with
    msg_wf := Memory.writeWord_wf h.msg_wf a val
    msg_within := Memory.writeWord_within h.msg_within (by omega) val }

theorem coherent_hostWrite {s t : State} (h : Coherent s) {off : BitVec 17} {val : Word} (hoff : off.toNat % 4 = 0)
    (ht : hostWrite s val (locate s.config off) = .next t) : Coherent t ∧ t.config = s.config := by
  cases hplace : locate s.config off <;> rw [hplace] at ht <;> cases ht
  case reg r => exact ⟨coherent_writeReg h r val, by cases r <;> rfl⟩
  case reserved => exact ⟨h, rfl⟩
  case msg a =>
    obtain ⟨ha, hsize⟩ := locate_eq_msg_iff.1 hplace
    exact ⟨coherent_writeWord h (by omega) hsize val, rfl⟩

theorem coherent_engineStep {s t : State} (h : Coherent s) (ht : engineStep s = .next t) :
    Coherent t ∧ t.config = s.config := by
  obtain ⟨-, rfl⟩ | ⟨c, -, ⟨e, rfl⟩ | ⟨i, -, rfl⟩⟩ := engineStep_next ht
  · exact ⟨h, rfl⟩
  · exact ⟨coherent_completeError h e, rfl⟩
  · exact ⟨coherent_complete (coherent_effect h i), effect_config i s⟩

/-- Settles O55, by the four ways a step ends. -/
theorem stepKeepsCoherent : Obligations.StepKeepsCoherent := by
  intro s t h hstep
  have hes (es : List Event) : Coherent { s with events := es } := coherent_congr h rfl
  cases moved_of_step hstep with
  | reset rest he ht => exact ht ▸ ⟨coherent_takeReset _, rfl⟩
  | read off rest v he ht => exact ht ▸ ⟨coherent_congr h rfl, rfl⟩
  | write off val rest he hoff hp ht => exact coherent_hostWrite (s := { s with events := rest }) (hes rest) hoff ht
  | engine hnext ht => exact coherent_engineStep (s := popped s) (hes s.events.tail) ht

end Sys2Proof.Proofs

/-! # Reset, RKV, RK, W and WP in a step, and polling (10_state.md, 40_command_cycle.md, 70_reset_and_hazards.md) -/

namespace Sys2Proof.Proofs

open Sys2Proof.Machine Sys2Proof.Claims

/-! ## Reset (R341) -/

theorem step_reset {s : State} {rest : List Event} (he : s.events = .reset :: rest) :
    step s = .next (takeReset { s with events := rest }) := by
  simp only [step_eq, he, takeEvent]

/-- Settles O53: every clause is a field of `takeReset`. -/
theorem resetClearsEveryRegister : Obligations.ResetClearsEveryRegister := by
  intro s rest he
  have hstatus : statusWord Status.reset = 0 := by decide
  have hnblk : BitVec.ofNat 32 (blockCount 0) = 1 := by decide
  refine ⟨_, step_reset he, rfl, hstatus, rfl, rfl, rfl, rfl, rfl, rfl, rfl, rfl, rfl, rfl, rfl, rfl, hnblk, ?_⟩
  simp

/-! ## What each move leaves of RKV, RK, W and WP (10_state.md R37, sections 3 and 5) -/

/-- A host write changes RKV only at a KEY word, and RK, W and WP never. -/
theorem hostWrite_frame {s t : State} {p : Place} {val : Word} (h : hostWrite s val p = .next t) :
    t.rk = s.rk ∧ t.w = s.w ∧ t.wp = s.wp ∧ ((∀ i, p ≠ .reg (.key i)) → t.status.rkv = s.status.rkv) := by
  cases p with
  | reserved | msg => cases h; exact ⟨rfl, rfl, rfl, fun _ => rfl⟩
  | reg r =>
    cases h
    cases r
    case key i => exact ⟨rfl, rfl, rfl, fun hno => absurd rfl (hno i)⟩
    all_goals exact ⟨rfl, rfl, rfl, fun _ => rfl⟩

/-- The engine changes RKV or RK only as SM4_KEYEXP completes. -/
theorem engineStep_rkv_rk {s t : State} (h : engineStep s = .next t) :
    (t.status.rkv = s.status.rkv ∧ t.rk = s.rk) ∨ (s.pending = some 0x00000008 ∧ t.pending = none) := by
  obtain ⟨-, rfl⟩ | ⟨c, hp, ⟨e, rfl⟩ | ⟨i, hi, rfl⟩⟩ := engineStep_next h
  · exact .inl ⟨rfl, rfl⟩
  · exact .inl ⟨rfl, rfl⟩
  · by_cases hkey : i = .sm4Keyexp
    · subst hkey
      exact .inr ⟨hp.trans (congrArg some ((decode_eq_command_iff_of_idx_eq_zero rfl).1 hi)), rfl⟩
    · obtain ⟨hrk, hstatus⟩ := effect_rk_status hkey s
      exact .inl ⟨by simp [hstatus], hrk⟩

/-- The engine changes W or WP only as SM3_EXPAND or SM3_DIGEST completes. -/
theorem engineStep_w_wp {s t : State} (h : engineStep s = .next t) :
    (t.w = s.w ∧ t.wp = s.wp) ∨ ((s.pending = some 0x00000014 ∨ s.pending = some 0x00000016) ∧ t.pending = none) := by
  obtain ⟨-, rfl⟩ | ⟨c, hp, ⟨e, rfl⟩ | ⟨i, hi, rfl⟩⟩ := engineStep_next h
  · exact .inl ⟨rfl, rfl⟩
  · exact .inl ⟨rfl, rfl⟩
  · have word {j : Instr} (hj : j.idx = 0) (hij : i = j) : s.pending = some (j.opcode.setWidth 32) :=
      hp.trans (congrArg some ((decode_eq_command_iff_of_idx_eq_zero hj).1 (hij ▸ hi)))
    by_cases hexpand : i = .sm3Expand
    · exact .inr ⟨.inl (word rfl hexpand), rfl⟩
    by_cases hdigest : i = .sm3Digest
    · exact .inr ⟨.inr (word rfl hdigest), rfl⟩
    · exact .inl (effect_w_wp hexpand hdigest s)

/-- Settles O57, by the four ways a step ends: only the engine's move can change one of the three. -/
theorem roundKeysAndExpansionChangeOnlyByTheirCommands : Obligations.RoundKeysAndExpansionChangeOnlyByTheirCommands := by
  intro s t h hreset
  cases moved_of_step h with
  | reset rest he => exact absurd he (hreset rest)
  | read off rest v he ht => subst ht; simp
  | write off val rest he hoff hp ht =>
    obtain ⟨hrk, hw, hwp, -⟩ := hostWrite_frame ht
    simp [hrk, hw, hwp]
  | engine hnext ht =>
    refine ⟨fun hne => ?_, fun hne => ?_⟩
    · exact (engineStep_rkv_rk ht).resolve_left fun hsame => hne hsame.2
    · exact (engineStep_w_wp ht).resolve_left fun hsame => hne.elim (absurd hsame.1) (absurd hsame.2)

/-- A KEY write gives up RKV, whatever the word (R37). -/
theorem rkv_of_key_write {s t : State} {off : BitVec 17} {val : Word} {rest : List Event} (h : step s = .next t)
    (he : s.events = wr off val :: rest) (hkey : 0x010 ≤ off.toNat ∧ off.toNat ≤ 0x01C) : t.status.rkv = false := by
  cases moved_of_step h with
  | reset rest' he' | read _ rest' _ he' => cases he.symm.trans he'
  | engine hnext => obtain ⟨_, he'⟩ | he' := hnext <;> cases he.symm.trans he'
  | write off' val' rest' he' hoff hp ht =>
    cases he.symm.trans he'
    obtain ⟨i, hi⟩ := (locate_eq_key_iff (c := s.config) hoff).2 hkey
    rw [hi] at ht
    cases ht
    rfl

/-- SM4_KEYEXP has no check to fail and sets RKV (42_sm4_commands.md R207). -/
theorem exec_sm4Keyexp (s : State) : exec .sm4Keyexp s =
    .next (completed { s with rk := keyExpand s.key, status := { s.status with rkv := true } }) :=
  exec_of_pass (check_command_none.2 ⟨nofun, nofun, rfl⟩) rfl

/-- What can have changed RKV in a step. -/
theorem rkv_changed {s t : State} (h : step s = .next t) (hne : t.status.rkv ≠ s.status.rkv) :
    (∃ rest, s.events = .reset :: rest) ∨
    (∃ (off : BitVec 17) (val : Word) (rest : List Event), s.events = wr off val :: rest ∧ 0x010 ≤ off.toNat ∧
      off.toNat ≤ 0x01C) ∨
    EngineNext s ∧ s.pending = some 0x00000008 := by
  cases moved_of_step h with
  | reset rest he => exact .inl ⟨rest, he⟩
  | read off rest v he ht => exact absurd (ht ▸ rfl) hne
  | write off val rest he hoff hp ht =>
    obtain ⟨-, -, -, hkeep⟩ := hostWrite_frame ht
    have hkey : ∃ i, locate s.config off = .reg (.key i) := by
      by_contra hno
      exact hne (hkeep (not_exists.1 hno))
    exact .inr (.inl ⟨off, val, rest, he, (locate_eq_key_iff hoff).1 hkey⟩)
  | engine hnext ht =>
    obtain ⟨hrkv, -⟩ | ⟨hp, -⟩ := engineStep_rkv_rk ht
    · exact absurd hrkv hne
    · exact .inr (.inr ⟨hnext, hp⟩)

/-- Settles O56: a clause for each move that sets or clears RKV, `rkv_changed` for all others, and the check of R312. -/
theorem rkvChangesOnlyAsSaid : Obligations.RkvChangesOnlyAsSaid := by
  intro s t h
  have engineNext {rest : List Event} (he : s.events = .engine :: rest ∨ s.events = []) : EngineNext s :=
    he.imp_left fun he => ⟨rest, he⟩
  refine ⟨fun rest he => ?_, fun off val rest he hlo hhi => rkv_of_key_write h he ⟨hlo, hhi⟩, fun rest he hp => ?_,
    rkv_changed h, fun rest c he hp hrkv hkind => ?_⟩
  · cases (step_reset he).symm.trans h
    rfl
  · have hdecode : decode 0x00000008 = .command .sm4Keyexp := by decide
    cases ((step_execs (engineNext he) hp hdecode).trans (exec_sm4Keyexp _)).symm.trans h
    rfl
  · obtain ⟨i, hi, hneeds⟩ : ∃ i, decode c = .command i ∧ needsKey i = true := by
      obtain hi | hi | ⟨idx, hi⟩ := hkind <;> exact ⟨_, hi, rfl⟩
    have hnoKey : check (.command i) (popped s) = some .noKey := check_noKey hneeds hrkv
    cases ((step_execs (engineNext he) hp hi).trans (exec_error hnoKey)).symm.trans h
    exact ⟨rfl, rfl⟩

/-! ## Polling STATUS (40_command_cycle.md section 3; 70_reset_and_hazards.md section 4) -/

/-- The same outcome with other moves to come and another answer at the port. -/
def atPort (es : List Event) (r : Option Word) : Result → Result
  | .next t => .next (withPort t es r)
  | .fault f => .fault f
  | .refused q => .refused q

/-- An outcome at one port, from that at another: the port's answer is all that differs. -/
theorem atPort_next {es : List Event} {r : Option Word} {res : Result} {t : State} (h : atPort es r res = .next t)
    (r' : Option Word) : atPort es r' res = .next { t with rdata := r' } := by
  cases res <;> cases h
  rfl

theorem atPort_fault {es : List Event} {r : Option Word} {res : Result} {f : Fault} (h : atPort es r res = .fault f)
    (r' : Option Word) : atPort es r' res = .fault f := by
  cases res <;> cases h
  rfl

/-- A run of one step is the step. -/
theorem run_one {M : Host.Core} (s : M.State) : M.run 1 s = M.step s := by
  simp only [Host.Core.run]
  cases M.step s <;> rfl

section
variable (s : State) (es : List Event) (r : Option Word)

theorem check_withPort (d : Decoded) : check d (withPort s es r) = check d s := by
  cases d with
  | illegal => rfl
  | command i => cases i <;> rfl

theorem messageWritten_withPort (i : Instr) : messageWritten i (withPort s es r) = messageWritten i s := by
  cases i <;> rfl

theorem effect_withPort (i : Instr) : effect i (withPort s es r) = withPort (effect i s) es r := by
  cases i <;> rfl

/-- The engine performs a word the same at any port. -/
theorem runDecoded_withPort (d : Decoded) {perform : State → Result}
    (hperform : perform (withPort s es r) = atPort es r (perform s)) :
    runDecoded d perform (withPort s es r) = atPort es r (runDecoded d perform s) := by
  simp only [runDecoded, check_withPort, hperform]
  cases check d s with
  | some e => rfl
  | none => cases perform s <;> rfl

theorem performWord_withPort (c : Word) : performWord c (withPort s es r) = atPort es r (performWord c s) := by
  unfold performWord
  cases decode c with
  | illegal why => exact runDecoded_withPort s es r _ rfl
  | command i =>
    simp only [exec_eq_runDecoded]
    refine runDecoded_withPort s es r _ ?_
    simp only [messageWritten_withPort, effect_withPort]
    split <;> rfl

/-- A poll leaves the STATUS word at the port and nothing else (R74). -/
theorem step_poll : step (withPort s (rd 0x004 :: es) r) = .next (withPort s es (some (statusWord s.status))) :=
  step_rd_status (s := withPort s (rd 0x004 :: es) r) rfl

/-- Polls of STATUS, at least one, leave its word at the port and nothing else. -/
theorem run_polls (k n : Nat) : Host.Core.run core (k + 1 + n) (withPort s (List.replicate (k + 1) (rd 0x004) ++ es) r) =
    Host.Core.run core n (withPort s es (some (statusWord s.status))) := by
  induction k generalizing r with
  | zero =>
    rw [Nat.zero_add, Nat.add_comm]
    exact run_next (M := core) (step_poll s es r)
  | succ k ih =>
    rw [Nat.add_right_comm (k + 1), ← ih (some (statusWord s.status))]
    exact run_next (M := core) (step_poll s (List.replicate (k + 1) (rd 0x004) ++ es) r)

end

/-- Settles O58: the word in flight is performed the same at the port that the polls leave. -/
theorem pollingDoesNotChangeTheResult : Obligations.PollingDoesNotChangeTheResult := by
  intro k s c rest hp
  have engine (r : Option Word) : step (withPort s (.engine :: rest) r) = atPort rest r (performWord c s) :=
    (step_performs (s := withPort s (.engine :: rest) r) (.inl ⟨rest, rfl⟩) hp).trans (performWord_withPort s rest r c)
  have polled := (run_polls s (.engine :: rest) s.rdata k 1).trans ((run_one _).trans (engine _))
  exact ⟨fun t ht => polled.trans (atPort_next ((engine s.rdata).symm.trans ht) _),
    fun f hf => polled.trans (atPort_fault ((engine s.rdata).symm.trans hf) _)⟩

end Sys2Proof.Proofs

/-! # Key schedule, encryption and decryption (41_sm4_functions.md, 42_sm4_commands.md R207 to R209) -/

namespace Sys2Proof.Proofs

open Sys2Proof.Machine Sys2Proof.Claims

/-! ## The S-box (R161) -/

/-- The S-box read backwards: sixteen rows of sixteen bytes, entry y the position of y in the table of R160. -/
def sboxPositions : List (BitVec 128) :=
  [ 0x716c7ab8160f1e4135ebd02ae4ac625a, 0xcdc8db1a0a8e0846f04b96c132a060cc, 0xf76d69aa61681b760ca914100ed8a3b7,
    0x9bd29a28955f79b286fef46b4a06fb3e, 0x84cb212b19b37240ff1ce35b78f6ae4e, 0x22bf77ad29975d736549cebeca9263fa,
    0xa78d2f6455e8a51150e1ba51bdbcedaf, 0x5c54bb45d93c13e66ef827d66af2e7c7, 0x3852a448ef4d1d6fd3e082579dc0b63d,
    0x0124c3993a37e5e2261f1294205e7f74, 0x7c8f678893d43f424f3318ab2e9891c2, 0xdf9e5331de870907dce947c4c6d71581,
    0xa8d10b177decee857e34a6fd04d58b2d, 0xda66837570b000fccfc956b1f5c5b439, 0x9005a29f30dd4c7b36028059f32cf925,
    0xf1ea8a44239ca189588c3b0d43b503b9 ]

/-- The byte whose S-box value is given. -/
def sboxPosition (y : Byte) : Byte := (sboxPositions.getD (y.toNat / 16) 0 >>> (8 * (15 - y.toNat % 16))).setWidth 8

theorem sboxPosition_sbox : ∀ b : Byte, sboxPosition (sbox b) = b := by decide +kernel

/-- Settles O35: the S-box value gives its byte back. -/
theorem sboxIsInjective : Obligations.SboxIsInjective :=
  fun _ _ h => Function.LeftInverse.injective sboxPosition_sbox h

/-! ## The key schedule (R168 to R171) -/

/-- The table of CK by its byte formula (R168). -/
theorem sm4CK_bytes : ∀ i < 32, sm4CK i = BitVec.ofNat 8 (7 * (4 * i)) ++ BitVec.ofNat 8 (7 * (4 * i + 1)) ++
    BitVec.ofNat 8 (7 * (4 * i + 2)) ++ BitVec.ofNat 8 (7 * (4 * i + 3)) := by decide

/-- Element i of K (R169, R170). -/
def keyWord (k : Block128) (i : Nat) : Word := (keySequence k).getD i 0

/-- K starts with the masked key (R169). -/
theorem keyWord_masked (k : Block128) {i : Nat} (hi : i < 4) : keyWord k i = (maskedKey k).reverse.getD i 0 :=
  extend_reverse_seed keyStep 0 (maskedKey k) hi

/-- K continues by the recurrence (R170). -/
theorem keyWord_recurrence (k : Block128) {i : Nat} (hi : i < 32) :
    keyWord k (i + 4) = keyWord k i ^^^
      sm4Tk (keyWord k (i + 1) ^^^ keyWord k (i + 2) ^^^ keyWord k (i + 3) ^^^ sm4CK i) := by
  have hnew : keyWord k (i + 4) = keyStep (0 + i) (extend keyStep i 0 (maskedKey k)) :=
    extend_reverse_new keyStep 0 (maskedKey k) hi
  have hback {n : Nat} (hn : 0 < n) (hn4 : n ≤ 4) :
      back (extend keyStep i 0 (maskedKey k)) n = keyWord k (i + 4 - n) :=
    back_extend keyStep 0 (maskedKey k) hi.le hn (Nat.le_add_left_of_le hn4)
  rw [hnew, keyStep, hback (n := 4) (by decide) (by decide), hback (n := 3) (by decide) (by decide),
    hback (n := 2) (by decide) (by decide), hback (n := 1) (by decide) (by decide), Nat.zero_add]
  rfl

/-- rk[i] = K[i+4] (R171). -/
theorem keyExpand_getElem (k : Block128) {i : Nat} (hi : i < 32) : (keyExpand k)[i] = keyWord k (i + 4) := by
  rw [← wordAt_lt _ i hi, keyExpand, wordAt_toFile, keyWord]
  simp [List.getD_eq_getElem?_getD, Nat.add_comm]

/-- Settles O37: the sequence is `keyWord`; the two round keys of the zero key are evaluated. -/
theorem keyScheduleFollowsTheRecurrence : Obligations.KeyScheduleFollowsTheRecurrence := by
  refine ⟨fun k => ⟨keyWord k, keyWord_masked k (by decide), keyWord_masked k (by decide), keyWord_masked k (by decide),
    keyWord_masked k (by decide), fun i hi => ?_, fun i => keyExpand_getElem k⟩, by decide +kernel⟩
  rw [keyWord_recurrence k hi, sm4Tk_eq_keyDiffused_tauOf, sm4CK_bytes i hi]

/-- Settles O19: SM4_KEYEXP has no check to fail, so a second one finds the same KEY. -/
theorem sm4KeyexpResult : Obligations.Sm4KeyexpResult := by
  refine ⟨fun c => decode_eq_command_iff_of_idx_eq_zero rfl, exec_sm4Keyexp, fun s t ht => ⟨_, exec_sm4Keyexp t, ?_, rfl⟩,
    keyExpand_katBlock_first, by decide +kernel⟩
  cases (exec_sm4Keyexp s).symm.trans ht
  rfl

/-! ## The 32 rounds as the sequence X_0 to X_35 (R175) -/

/-- X after i rounds with the given keys. -/
def rolled (x : Block128) (keys : Vector Word 32) : Nat → Block128
  | 0 => x
  | i + 1 => sm4Round (rolled x keys i) (wordAt keys i)

/-- X_i: each round shifts it into w0 of the rolling register. -/
def roundWord (x : Block128) (keys : Vector Word 32) (i : Nat) : Word := (rolled x keys i).w0

/-- The rolling register holds four elements of the sequence. -/
theorem rolled_eq (x : Block128) (keys : Vector Word 32) (i : Nat) : rolled x keys i =
    ⟨roundWord x keys i, roundWord x keys (i + 1), roundWord x keys (i + 2), roundWord x keys (i + 3)⟩ := rfl

theorem roundWord_recurrence (x : Block128) (keys : Vector Word 32) {i : Nat} (hi : i < 32) : roundWord x keys (i + 4) =
    newWord (roundWord x keys i) (roundWord x keys (i + 1)) (roundWord x keys (i + 2)) (roundWord x keys (i + 3))
      keys[i] := by
  rw [← sm4F_eq_newWord, ← wordAt_lt keys i hi]
  rfl

/-- The register file as the list of its elements by index. -/
theorem toList_eq_map_wordAt {n : Nat} (v : Vector Word n) : v.toList = (List.range n).map (wordAt v) := by
  refine List.ext_getElem (by simp) fun i hi _ => ?_
  have hlt : i < n := by simpa using hi
  simp [hlt]

theorem foldl_sm4Round_eq_rolled (x : Block128) (keys : Vector Word 32) (n : Nat) :
    ((List.range n).map (wordAt keys)).foldl sm4Round x = rolled x keys n := by
  induction n with
  | zero => rfl
  | succ n ih => rw [List.range_succ, List.map_append, List.foldl_append, ih]; rfl

theorem crypt_eq_rolled (x : Block128) (keys : Vector Word 32) : crypt x keys = rolled x keys 32 := by
  rw [crypt, toList_eq_map_wordAt, foldl_sm4Round_eq_rolled]

/-- The round keys in reverse order (R172). -/
theorem reverseKeys_getElem (rk : Vector Word 32) {i : Nat} (hi : i < 32) : (reverseKeys rk)[i] = rk[31 - i] := by
  rw [← wordAt_lt _ i hi, reverseKeys, wordAt_toFile, List.getD_reverse _ (by simpa using hi)]
  have : 31 - i < 32 := by omega
  simp [this]

/-! ## SM4_ENC and SM4_DEC (R208, R209) -/

theorem exec_sm4Enc {s : State} (hkey : s.status.rkv = true) :
    exec .sm4Enc s = .next (completed { s with x := crypt s.din s.rk, dout := revWords (crypt s.din s.rk) }) :=
  exec_of_pass (check_command_none.2 ⟨fun _ => hkey, nofun, rfl⟩) rfl

theorem exec_sm4Dec {s : State} (hkey : s.status.rkv = true) :
    exec .sm4Dec s = .next (completed { s with
      x := crypt s.din (reverseKeys s.rk), dout := revWords (crypt s.din (reverseKeys s.rk)) }) :=
  exec_of_pass (check_command_none.2 ⟨fun _ => hkey, nofun, rfl⟩) rfl

/-- The known-answer vector of SM4 (95_test_vectors.md section 1), by evaluation. -/
theorem crypt_katBlock : crypt katBlock (keyExpand katBlock) = ⟨0x536e4246, 0x86b3e94f, 0xd206965e, 0x681edf34⟩ := by
  decide +kernel

/-! ## Decryption undoes encryption (R179) -/

/-- A round undoes itself between two reversals of the words. -/
theorem sm4Round_revWords_sm4Round (x : Block128) (k : Word) :
    sm4Round (revWords (sm4Round x k)) k = revWords x := by
  have hsum : x.w3 ^^^ x.w2 ^^^ x.w1 ^^^ k = x.w1 ^^^ x.w2 ^^^ x.w3 ^^^ k := by ac_rfl
  simp only [sm4Round, revWords, sm4F, hsum]
  rw [BitVec.xor_assoc, BitVec.xor_self, BitVec.xor_zero]

/-- As `sm4Round_revWords_sm4Round`, for any list of keys. -/
theorem foldl_reverse_revWords (keys : List Word) (x : Block128) :
    keys.reverse.foldl sm4Round (revWords (keys.foldl sm4Round x)) = revWords x := by
  induction keys generalizing x with
  | nil => rfl
  | cons k keys ih =>
    rw [List.foldl_cons, List.reverse_cons, List.foldl_append, ih]
    exact sm4Round_revWords_sm4Round x k

/-- Whatever the keys, the cipher with the keys in reverse order undoes the cipher. -/
theorem crypt_reverseKeys (x : Block128) (keys : Vector Word 32) :
    revWords (crypt (revWords (crypt x keys)) (reverseKeys keys)) = x := by
  simp only [crypt, reverseKeys_toList, foldl_reverse_revWords]
  rfl

theorem reverseKeys_reverseKeys (keys : Vector Word 32) : reverseKeys (reverseKeys keys) = keys := by
  ext i hi
  rw [reverseKeys_getElem _ hi, reverseKeys_getElem _ (by omega)]
  simp only [show 31 - (31 - i) = i by omega]

/-- Settles O32: reversing the keys is its own inverse, so each direction undoes the other. -/
theorem decryptUndoesEncrypt : Obligations.DecryptUndoesEncrypt := by
  refine fun p k => ⟨crypt_reverseKeys p (keyExpand k), ?_⟩
  have h := crypt_reverseKeys p (reverseKeys (keyExpand k))
  rwa [reverseKeys_reverseKeys] at h

/-- Settles O33: `crypt_reverseKeys` asks nothing of the round keys. -/
theorem decAfterEncGivesTheBlockBack : Obligations.DecAfterEncGivesTheBlockBack :=
  fun s hkey => ⟨_, _, exec_sm4Enc hkey, exec_sm4Dec hkey, crypt_reverseKeys s.din s.rk⟩

/-- Settles O34: the invariant says what RK holds. -/
theorem encAndDecUseTheCurrentKey : Obligations.EncAndDecUseTheCurrentKey := by
  intro s h hkey
  have hrk := h.rkv_keys hkey
  refine ⟨⟨_, exec_sm4Enc hkey, ?_⟩, _, exec_sm4Dec hkey, ?_⟩
  · rw [encryptBlock, ← hrk]; rfl
  · rw [decryptBlock, ← hrk]; rfl

/-- Settles O20: the sequence is `roundWord` with the keys of RK. -/
theorem sm4EncResult : Obligations.Sm4EncResult := by
  refine ⟨fun c => decode_eq_command_iff_of_idx_eq_zero rfl, fun s hkey => exec_error (check_noKey rfl hkey),
    fun s hkey => ⟨roundWord s.din s.rk, ⟨rfl, rfl, rfl, rfl⟩, fun i hi => roundWord_recurrence _ _ hi, ?_⟩,
    fun s hkey hrk hdin => ?_⟩
  · rw [exec_sm4Enc hkey, crypt_eq_rolled, rolled_eq, revWords]
  · rw [exec_sm4Enc hkey, hrk, hdin, crypt_katBlock, revWords]

/-- Settles O21: the sequence is `roundWord` with the keys of RK in reverse order, and the known answer is that of
encryption undone. -/
theorem sm4DecResult : Obligations.Sm4DecResult := by
  refine ⟨fun c => decode_eq_command_iff_of_idx_eq_zero rfl, fun s hkey => exec_error (check_noKey rfl hkey),
    fun s hkey => ⟨roundWord s.din (reverseKeys s.rk), ⟨rfl, rfl, rfl, rfl⟩, fun i hi => ?_, ?_⟩,
    fun s hkey hrk hdin => ?_⟩
  · rw [← reverseKeys_getElem s.rk hi, roundWord_recurrence _ _ hi]
  · rw [exec_sm4Dec hkey, crypt_eq_rolled, rolled_eq, revWords]
  · have hcrypt : crypt s.din (reverseKeys s.rk) = revWords katBlock := by
      have h := foldl_reverse_revWords s.rk.toList katBlock
      rw [hrk] at h ⊢
      rw [hdin]
      rw [← crypt, crypt_katBlock] at h
      exact h
    rw [exec_sm4Dec hkey, hcrypt]
    rfl

/-! ## SM4_ENC and SM4_DEC as single rounds (R208, R209) -/

/-- Any rounds in range, then SM4_FINAL: X has gone through the rounds with the round keys in the order of the list. -/
theorem runCommands_rounds_final {idxs : List Nat} (hidx : ∀ i ∈ idxs, i < 32) {s : State} (hkey : s.status.rkv = true) :
    runCommands (idxs.map .sm4Round ++ [.sm4Final]) s = .next (completed { s with
      x := (idxs.map (wordAt s.rk)).foldl sm4Round s.x
      dout := revWords ((idxs.map (wordAt s.rk)).foldl sm4Round s.x) }) := by
  induction idxs generalizing s with
  | nil => rw [List.map_nil, List.nil_append, runCommands, exec_sm4Final]; rfl
  | cons i idxs ih =>
    have hround : exec (.sm4Round i) s = .next (completed { s with x := sm4Round s.x (wordAt s.rk i) }) :=
      exec_of_pass (check_sm4Round_none hkey (hidx i List.mem_cons_self)) rfl
    rw [List.map_cons, List.cons_append, runCommands, hround]
    exact ih (fun j hj => hidx j (List.mem_cons_of_mem i hj)) hkey

/-- The round keys from the last to the first (R172). -/
theorem map_wordAt_reversed (rk : Vector Word 32) :
    ((List.range 32).map (31 - ·)).map (wordAt rk) = (reverseKeys rk).toList := by
  rw [toList_eq_map_wordAt, List.map_map]
  refine List.map_congr_left fun i hi => ?_
  have hlt : i < 32 := List.mem_range.1 hi
  rw [wordAt_lt _ i hlt, reverseKeys_getElem _ hlt]
  exact wordAt_lt rk (31 - i) (by omega)

/-- Settles O30: the rounds use the round keys in the order of the indexes, 0 to 31 or 31 to 0. -/
theorem encAndDecAreTheirRoundsAndFinal : Obligations.EncAndDecAreTheirRoundsAndFinal := by
  intro s hkey
  have rounds {idxs : List Nat} (hidx : ∀ i ∈ idxs, i < 32) :=
    runCommands_rounds_final hidx (s := { s with x := s.din }) hkey
  constructor
  · refine (rounds fun i => List.mem_range.1).trans ?_
    rw [exec_sm4Enc hkey, ← toList_eq_map_wordAt]
    rfl
  · have hmap : (List.range 32).map (fun i => Instr.sm4Round (31 - i)) =
        ((List.range 32).map (31 - ·)).map .sm4Round := by rw [List.map_map]; rfl
    rw [hmap]
    refine (rounds (by simp; omega)).trans ?_
    rw [exec_sm4Dec hkey, map_wordAt_reversed]
    rfl

end Sys2Proof.Proofs

/-! # Padding (43_sm3_functions.md R233 to R236) -/

namespace Sys2Proof.Proofs

open Sys2Proof.Machine Sys2Proof.Claims

/-! ## The number of blocks (R234) -/

/-- Settles O38: 64 * NB(n) is n + 72 without its remainder, so the zeros are what that leaves. -/
theorem blockCountIsTheLeastThatFits : Obligations.BlockCountIsTheLeastThatFits := by
  refine ⟨fun n => ⟨63 - (n + 72) % 64, by omega, by unfold blockCount; omega⟩, rfl, rfl, rfl, rfl, rfl, rfl, rfl,
    fun s => ?_⟩
  have hlen := s.msglen.isLt
  have hread : (readReg s .nblk).toNat = (s.msglen.toNat + 72) / 64 :=
    (BitVec.toNat_ofNat _ 32).trans (Nat.mod_eq_of_lt (by unfold blockCount; omega))
  exact ⟨hread, by omega⟩

/-! ## One block (R235) -/

/-- A block of the padded message depends only on its own message bytes. -/
theorem padBlock_congr {m m' : Nat → Byte} {n b : Nat}
    (h : ∀ p, 64 * b ≤ p → p < min (64 * b + 64) n → m p = m' p) : padBlock m n b = padBlock m' n b := by
  have byte {p : Nat} (hlo : 64 * b ≤ p) (hhi : p < 64 * b + 64) : padByte m n p = padByte m' n p :=
    padByte_congr fun hp => h p hlo (by omega)
  refine congrArg Vector.ofFn (funext fun i => ?_)
  dsimp only
  rw [byte, byte, byte, byte] <;> omega

/-- Settles O40; whether the block is one of the message does not matter. -/
theorem padBlockReadsOnlyItsOwnBytes : Obligations.PadBlockReadsOnlyItsOwnBytes := fun _ _ _ _ _ => padBlock_congr

/-- The bytes of a word put together from four bytes, by their bit positions. -/
theorem packBytes_extract (b0 b1 b2 b3 : Byte) :
    (packBytes b0 b1 b2 b3).extractLsb' 24 8 = b0 ∧ (packBytes b0 b1 b2 b3).extractLsb' 16 8 = b1 ∧
    (packBytes b0 b1 b2 b3).extractLsb' 8 8 = b2 ∧ (packBytes b0 b1 b2 b3).extractLsb' 0 8 = b3 := by
  unfold packBytes
  refine ⟨?_, ?_, ?_, BitVec.extractLsb'_append_eq_right⟩
  · iterate 3 rw [BitVec.extractLsb'_append_eq_of_le (by decide)]
    exact BitVec.extractLsb'_eq_self
  · iterate 2 rw [BitVec.extractLsb'_append_eq_of_le (by decide)]
    exact BitVec.extractLsb'_append_eq_right
  · rw [BitVec.extractLsb'_append_eq_of_le (by decide)]
    exact BitVec.extractLsb'_append_eq_right

theorem wordBytes_packBytes (b0 b1 b2 b3 : Byte) : wordBytes (packBytes b0 b1 b2 b3) = [b0, b1, b2, b3] := by
  obtain ⟨h0, h1, h2, h3⟩ := packBytes_extract b0 b1 b2 b3
  rw [wordBytes, h0, h1, h2, h3]

/-- Word i of a block holds the padded bytes from 64 * b + 4 * i on. -/
theorem padBlock_getElem (m : Nat → Byte) (n b : Nat) {i : Nat} (hi : i < 16) : (padBlock m n b)[i] =
    packBytes (padByte m n (64 * b + 4 * i)) (padByte m n (64 * b + 4 * i + 1)) (padByte m n (64 * b + 4 * i + 2))
      (padByte m n (64 * b + 4 * i + 3)) := by
  rw [padBlock, Vector.getElem_ofFn]

/-- Byte q of word i of a block is the padded byte at 64 * b + 4 * i + q. -/
theorem padBlock_byte (m : Nat → Byte) (n b : Nat) {i q : Nat} (hi : i < 16) (hq : q < 4) :
    (padBlock m n b)[i].extractLsb' (24 - 8 * q) 8 = padByte m n (64 * b + 4 * i + q) := by
  obtain ⟨h0, h1, h2, h3⟩ := packBytes_extract (padByte m n (64 * b + 4 * i)) (padByte m n (64 * b + 4 * i + 1))
    (padByte m n (64 * b + 4 * i + 2)) (padByte m n (64 * b + 4 * i + 3))
  rw [padBlock_getElem _ _ _ hi]
  obtain rfl | rfl | rfl | rfl : q = 0 ∨ q = 1 ∨ q = 2 ∨ q = 3 := by omega
  · exact h0
  · exact h1
  · exact h2
  · exact h3

/-! ## All blocks one after the other (R236) -/

/-- Groups of c values of a sequence, one after the other, are the sequence. -/
theorem flatMap_range_map {α : Type} (f : Nat → α) (c k : Nat) :
    ((List.range k).flatMap fun b => (List.range c).map fun q => f (c * b + q)) = (List.range (c * k)).map f := by
  induction k with
  | zero => rfl
  | succ k ih =>
    rw [List.range_succ, List.flatMap_append, ih, Nat.mul_succ, List.range_add, List.map_append, List.map_map]
    simp [Function.comp_def]

/-- The bytes of a block are its 64 padded bytes. -/
theorem padBlock_bytes (m : Nat → Byte) (n b : Nat) :
    (padBlock m n b).toList.flatMap wordBytes = (List.range 64).map fun q => padByte m n (64 * b + q) := by
  rw [toList_eq_map_wordAt, List.flatMap_map, ← flatMap_range_map (fun q => padByte m n (64 * b + q)) 4 16]
  refine List.flatMap_congr fun i hi => ?_
  rw [wordAt_lt _ i (List.mem_range.1 hi), padBlock_getElem, wordBytes_packBytes]
  rfl

/-- A byte of a part of a word is a byte of the word. -/
theorem extractLsb'_extractLsb' {w : Nat} (x : BitVec w) {start len start' len' : Nat} (h : start' + len' ≤ len) :
    (x.extractLsb' start len).extractLsb' start' len' = x.extractLsb' (start + start') len' := by
  ext k hk
  have : start' + k < len := by omega
  simp [this, Nat.add_assoc]

/-- The eight bytes of the length field, by shifts of the number. -/
theorem lengthBytes {v : Nat} (hv : v < 2 ^ 64) :
    wordBytes ((BitVec.ofNat 64 v).extractLsb' 32 32) ++ wordBytes ((BitVec.ofNat 64 v).extractLsb' 0 32) =
      (List.range 8).map fun j => BitVec.ofNat 8 (v >>> (8 * (7 - j))) := by
  have byte (start : Nat) : (BitVec.ofNat 64 v).extractLsb' start 8 = BitVec.ofNat 8 (v >>> start) := by
    rw [BitVec.extractLsb', BitVec.toNat_ofNat, Nat.mod_eq_of_lt hv]
  simp only [wordBytes, extractLsb'_extractLsb', byte, Nat.reduceAdd, Nat.reduceLeDiff]
  rfl

section
variable (m : Nat → Byte) {n z : Nat} (hz : 64 * blockCount n = n + 1 + z + 8)
include hz

/-- After the message and 0x80 come z zeros. -/
theorem padByte_zeros : (List.range z).map (fun j => padByte m n (n + 1 + j)) = List.replicate z 0x00 := by
  refine List.eq_replicate_iff.2 ⟨by simp, fun u hu => ?_⟩
  obtain ⟨j, hj, rfl⟩ := List.mem_map.1 hu
  have hlt := List.mem_range.1 hj
  simp only [padByte]
  rw [if_neg (by omega), if_neg (by omega), if_pos (by omega)]

/-- The last eight bytes are the length in bits. -/
theorem padByte_lengthField (hn : n < 2 ^ 61) : (List.range 8).map (fun j => padByte m n (n + 1 + z + j)) =
    wordBytes ((BitVec.ofNat 64 (8 * n)).extractLsb' 32 32) ++ wordBytes ((BitVec.ofNat 64 (8 * n)).extractLsb' 0 32) := by
  rw [lengthBytes (by omega)]
  refine List.map_congr_left fun j hj => ?_
  have hlt := List.mem_range.1 hj
  simp only [padByte]
  rw [if_neg (by omega), if_neg (by omega), if_neg (by omega), show n + 1 + z + j - (64 * blockCount n - 8) = j by omega]

end

/-- The message itself comes first. -/
theorem padByte_message (m : List Byte) :
    (List.range m.length).map (padByte (fun p => m.getD p 0) m.length) = m := by
  refine List.ext_getElem (by simp) fun p hp hp' => ?_
  simp [padByte, hp']

/-- Settles O39: the padded bytes in order, cut where the message, the 0x80, the zeros and the length begin. -/
theorem paddingIsTheByteProcedure : Obligations.PaddingIsTheByteProcedure := by
  intro m hm
  dsimp only
  obtain ⟨z, hz63, hz⟩ := blockCountIsTheLeastThatFits.1 m.length
  refine ⟨z, by omega, hz63, ?_⟩
  simp only [padBlock_bytes]
  rw [flatMap_range_map, hz, List.range_add, List.range_add, List.range_add]
  simp only [List.map_append, List.map_map, Function.comp_def]
  rw [padByte_message, padByte_zeros _ hz, padByte_lengthField _ hz hm]
  simp [padByte]

/-! ## SM3_PADBLK (44_sm3_commands.md R283) -/

/-- The padded byte of the message in MSG, where its message bytes are written. -/
theorem padByte_msgBytesOf {s : State} {n p : Nat} (h : p < n → s.msg.read p ≠ none) :
    some (padByte (msgBytesOf s) n p) = paddedByte s.msg.read n p := by
  simp only [padByte, paddedByte, Nat.shiftRight_eq_div_pow]
  split
  · next hp =>
    obtain ⟨u, hu⟩ := Option.ne_none_iff_exists'.1 (h hp)
    simp [msgBytesOf, hu]
  · simp only [apply_ite some]
    rfl

/-- SM3_PADBLK passes its check with a message that fits and a block of it. -/
theorem check_sm3Padblk_none {idx : Nat} {s : State} (hlen : s.msglen.toNat ≤ s.config.msgBytes)
    (hidx : idx < blockCount s.msglen.toNat) : check (.command (.sm3Padblk idx)) s = none :=
  check_command_none.2 ⟨nofun, fun _ => hlen, decide_eq_false (not_le.2 hidx)⟩

/-- Settles O26: the check in its order, then the written marks, then the block byte by byte. -/
theorem sm3PadblkResult : Obligations.Sm3PadblkResult := by
  refine ⟨fun c idx => decode_eq_command_iff_toNat, fun idx s => ⟨fun hlen => exec_error (check_len rfl hlen),
    fun hlen hidx => exec_error (check_sm3Padblk_range hlen hidx), fun hlen hidx hunwritten => ?_,
    fun hlen hidx hwritten => ?_⟩⟩
  · exact exec_of_unwritten (check_sm3Padblk_none hlen hidx) (written_eq_false_iff.2 hunwritten)
  · have hmsg : messageWritten (.sm3Padblk idx) s = true :=
      (Memory.written_iff _ _ _).2 fun p hlo hhi => Option.isSome_iff_ne_none.2 (hwritten p hlo hhi)
    refine ⟨_, exec_of_pass (check_sm3Padblk_none hlen hidx) hmsg, fun i hi q hq => ?_⟩
    rw [padBlock_byte _ _ _ hi hq]
    exact padByte_msgBytesOf fun hp => hwritten _ (by omega) (by omega)

end Sys2Proof.Proofs

/-! # Expansion, compression and digest (43_sm3_functions.md R242 to R253, 44_sm3_commands.md R285 and R286) -/

namespace Sys2Proof.Proofs

open Sys2Proof.Machine Sys2Proof.Claims

/-! ## Locality of the expansion (R242) -/

theorem expandWP_getElem (w : Vector Word 68) {j : Nat} (hj : j < 64) : (expandWP w)[j] = w[j] ^^^ w[j + 4] := by
  simp only [expandWP_eq_ofFn, Vector.getElem_ofFn]
  rw [wordAt_lt, wordAt_lt]

/-- Settles O41: WP[j] is the XOR of two words, and the changed word is at most one of them. -/
theorem expansionIsLocal : Obligations.ExpansionIsLocal := by
  intro w k hk x hx j hj
  rw [expandWP_getElem _ hj, expandWP_getElem _ hj, Vector.getElem_set, Vector.getElem_set]
  by_cases h : k = j
  · subst h
    simpa using hx
  by_cases h4 : k = j + 4
  · subst h4
    simpa using hx
  · simp [h, h4, Ne.symm h, Ne.symm h4]

/-! ## The rounds of the compression (R244 to R251) -/

/-- The pairs (W[j], WP[j]) of the 64 rounds. -/
def roundWords (w : Vector Word 68) (wp : Vector Word 64) : List (Word × Word) := (w.toList.take 64).zip wp.toList

theorem roundWords_length (w : Vector Word 68) (wp : Vector Word 64) : (roundWords w wp).length = 64 := by
  simp [roundWords]

theorem roundWords_getElem (w : Vector Word 68) (wp : Vector Word 64) {j : Nat} (hj : j < 64) :
    (roundWords w wp)[j]'(by rwa [roundWords_length]) = (w[j], wp[j]) := by
  simp [roundWords]

/-- The model's round is the one written with the library's rotations. -/
theorem sm3Round_eq_roundOf (r : WorkRegs) (j : Nat) (wj wpj : Word) : sm3Round r j wj wpj = roundOf j wj wpj r := by
  simp only [sm3Round, roundOf, sm3T, sm3FF, sm3GG, sm3P0_eq_p0Of, rol_eq_rotateLeft, BitVec.rotateLeft_mod_eq_rotateLeft]

/-- The working registers before round j. -/
def workRegs (v : Vector Word 8) (w : Vector Word 68) (wp : Vector Word 64) (j : Nat) : WorkRegs :=
  sm3Rounds 0 ((roundWords w wp).take j) ⟨v[0], v[1], v[2], v[3], v[4], v[5], v[6], v[7]⟩

theorem workRegs_succ (v : Vector Word 8) (w : Vector Word 68) (wp : Vector Word 64) {j : Nat} (hj : j < 64) :
    workRegs v w wp (j + 1) = roundOf j w[j] wp[j] (workRegs v w wp j) := by
  have hlen := roundWords_length w wp
  rw [workRegs, List.take_succ_eq_append_getElem (by omega), sm3Rounds_append, roundWords_getElem w wp hj,
    ← sm3Round_eq_roundOf]
  have htake : 0 + ((roundWords w wp).take j).length = j := by simp; omega
  rw [htake]
  rfl

/-- The compression is the feed-forward of the working registers after the 64 rounds (R250, R251). -/
theorem compress_eq (v : Vector Word 8) (w : Vector Word 68) (wp : Vector Word 64) :
    let r := workRegs v w wp 64
    compress v w wp = #v[v[0] ^^^ r.a, v[1] ^^^ r.b, v[2] ^^^ r.c, v[3] ^^^ r.d, v[4] ^^^ r.e, v[5] ^^^ r.f,
      v[6] ^^^ r.g, v[7] ^^^ r.h] := by
  rw [workRegs, List.take_of_length_le (roundWords_length w wp).le]
  rfl

theorem exec_sm3Compress (s : State) : exec .sm3Compress s = .next (completed { s with v := compress s.v s.w s.wp }) :=
  exec_of_pass (check_command_none.2 ⟨nofun, nofun, rfl⟩) rfl

/-- The known vector of R285, by evaluation: the block of "abc" compressed from IV. -/
theorem compress_abcBlock : compress sm3IV (expandW abcBlock) (expandWP (expandW abcBlock)) =
    #v[0x66c7f0f4, 0x62eeedd9, 0xd1f2d46b, 0xdc10e4e2, 0x4167c487, 0x5cf2f7a2, 0x297da02b, 0x8f4ba8e0] := by
  decide +kernel

/-- Settles O28: the sequence is `workRegs`; the known vector is `compress_abcBlock`. -/
theorem sm3CompressResult : Obligations.Sm3CompressResult := by
  refine ⟨fun c => decode_eq_command_iff_of_idx_eq_zero rfl,
    fun s => ⟨workRegs s.v s.w s.wp, rfl, fun j hj => workRegs_succ s.v s.w s.wp hj, ?_⟩, fun s hv hw hwp => ?_⟩
  · rw [exec_sm3Compress, compress_eq]
  · rw [exec_sm3Compress, hwp, hw, hv, compress_abcBlock]

/-! ## The digest (R252, R253, R286) -/

/-- A pass of the digest's loop depends only on the message. -/
theorem digestStep_congr {m m' : Nat → Byte} {n : Nat} (h : ∀ p < n, m p = m' p) : digestStep m n = digestStep m' n := by
  funext r b
  have hblock : padBlock m n b = padBlock m' n b := padBlock_congr fun p _ hp => h p (by omega)
  simp only [digestStep, hblock]

/-- The loop leaves the digest in V, and in B, W and WP what they are for the last block. -/
theorem digestStep_foldl (m : Nat → Byte) (n : Nat) (b : Vector Word 16) (w : Vector Word 68) (wp : Vector Word 64) :
    let last := padBlock m n (blockCount n - 1)
    (List.range (blockCount n)).foldl (digestStep m n) ⟨sm3IV, b, w, wp⟩ =
      ⟨digest m n, last, expandW last, expandWP (expandW last)⟩ := by
  have hv := digestStep_foldl_v m n (List.range (blockCount n)) ⟨sm3IV, b, w, wp⟩
  obtain ⟨k, hk⟩ : ∃ k, blockCount n = k + 1 := ⟨(n + 72) / 64 - 1, by unfold blockCount; omega⟩
  rw [digest, ← hv, hk, List.range_succ, List.foldl_append]
  rfl

/-- SM3_DIGEST passes its check with a message that fits. -/
theorem check_sm3Digest_none {s : State} (hlen : s.msglen.toNat ≤ s.config.msgBytes) :
    check (.command .sm3Digest) s = none :=
  check_command_none.2 ⟨nofun, fun _ => hlen, rfl⟩

/-- SM3_DIGEST of a message that stands in MSG. -/
theorem exec_sm3Digest {s : State} {m : List Byte} (hn : s.msglen.toNat = m.length)
    (hlen : m.length ≤ s.config.msgBytes) (hm : ∀ (p : Nat) (h : p < m.length), s.msg.read p = some m[p]) :
    let last := padBlock (fun p => m.getD p 0) m.length (blockCount m.length - 1)
    exec .sm3Digest s = .next (completed { s with
      v := digest (fun p => m.getD p 0) m.length
      b := last
      w := expandW last
      wp := expandWP (expandW last) }) := by
  have hwritten : messageWritten .sm3Digest s = true :=
    (Memory.written_iff _ _ _).2 fun p _ hp => by rw [hm p (by omega), Option.isSome_some]
  have hbytes : ∀ p < m.length, msgBytesOf s p = m.getD p 0 := fun p hp => by simp [msgBytesOf, hm p hp, hp]
  have hregs := digestStep_foldl (fun p => m.getD p 0) m.length s.b s.w s.wp
  rw [← digestStep_congr hbytes, ← hn, ← digestRegs] at hregs
  rw [exec_of_pass (check_sm3Digest_none (hn ▸ hlen)) hwritten, effect, hregs, hn]

/-- The digest of the empty message (95_test_vectors.md section 1), by evaluation. -/
theorem digest_empty : digest (fun p => ([] : List Byte).getD p 0) 0 =
    #v[0x1ab21d83, 0x55cfa17f, 0x8e611948, 0x31e81a8f, 0x22bec8c7, 0x28fefb74, 0x7ed035eb, 0x5082aa2b] := by
  decide +kernel

/-- The digest of "abc" (95_test_vectors.md section 1), by evaluation. -/
theorem digest_abc : digest (fun p => ([0x61, 0x62, 0x63] : List Byte).getD p 0) 3 =
    #v[0x66c7f0f4, 0x62eeedd9, 0xd1f2d46b, 0xdc10e4e2, 0x4167c487, 0x5cf2f7a2, 0x297da02b, 0x8f4ba8e0] := by
  decide +kernel

/-- Settles O29: the two known digests are the effect clause at the empty message and at "abc". -/
theorem sm3DigestResult : Obligations.Sm3DigestResult := by
  refine ⟨fun c => decode_eq_command_iff_of_idx_eq_zero rfl, fun s hlen => exec_error (check_len rfl hlen),
    fun s p hlen hp hread => ?_, fun s m => exec_sm3Digest, fun s hlen => ?_, fun s hlen h0 h1 h2 => ?_⟩
  · exact exec_of_unwritten (check_sm3Digest_none hlen) (written_eq_false_iff.2 ⟨p, Nat.zero_le p, hp, hread⟩)
  · exact ⟨_, exec_sm3Digest (m := []) (by rw [hlen]; rfl) (Nat.zero_le _) (by simp), digest_empty⟩
  · have hbound := (msgBytes_bounds s.config).2.1
    refine ⟨_, exec_sm3Digest (m := [0x61, 0x62, 0x63]) (by rw [hlen]; rfl) (by simp; omega) fun p hp => ?_, digest_abc⟩
    obtain rfl | rfl | rfl : p = 0 ∨ p = 1 ∨ p = 2 := by simp at hp; omega
    · exact h0
    · exact h1
    · exact h2

/-! ## The digest block by block -/

/-- The state with the digest's registers as given, after a command. -/
def loaded (s : State) (r : DigestRegs) : State := completed { s with v := r.v, b := r.b, w := r.w, wp := r.wp }

/-- The commands for one block. -/
def blockCommands (b : Nat) : List Instr := [.sm3Padblk b, .sm3Expand, .sm3Compress]

section
variable {s : State} (hlen : s.msglen.toNat ≤ s.config.msgBytes) (hwritten : messageWritten .sm3Digest s = true)
include hlen hwritten

/-- The commands for one block are one pass of the digest's loop. -/
theorem runCommands_block {b : Nat} (hb : b < blockCount s.msglen.toNat) (r : DigestRegs) (rest : List Instr) :
    runCommands (blockCommands b ++ rest) (loaded s r) =
      runCommands rest (loaded s (digestStep (msgBytesOf s) s.msglen.toNat r b)) := by
  have hmsg : messageWritten (.sm3Padblk b) (loaded s r) = true :=
    (Memory.written_iff _ _ _).2 fun p _ hp =>
      (Memory.written_iff _ _ _).1 hwritten p (Nat.zero_le p) (lt_of_lt_of_le hp (min_le_right _ _))
  have hpad := exec_of_pass (s := loaded s r) (check_sm3Padblk_none hlen hb) hmsg
  rw [blockCommands, List.cons_append, runCommands, hpad]
  simp only [List.cons_append, List.nil_append, runCommands, exec_sm3Expand, exec_sm3Compress]
  rfl

theorem runCommands_blocks {bs : List Nat} (hbs : ∀ b ∈ bs, b < blockCount s.msglen.toNat) (r : DigestRegs) :
    runCommands (bs.flatMap blockCommands) (loaded s r) =
      .next (loaded s (bs.foldl (digestStep (msgBytesOf s) s.msglen.toNat) r)) := by
  induction bs generalizing r with
  | nil => rfl
  | cons b bs ih =>
    rw [List.flatMap_cons, runCommands_block hlen hwritten (hbs b List.mem_cons_self), List.foldl_cons]
    exact ih (fun c hc => hbs c (List.mem_cons_of_mem b hc)) _

end

/-- Settles O31: both paths leave what the digest's loop does, started from the IV. -/
theorem digestIsTheBlockByBlockPath : Obligations.DigestIsTheBlockByBlockPath := by
  intro s t hlen ht
  have hcheck := check_sm3Digest_none hlen
  obtain ⟨e, he, -⟩ | ⟨-, hwritten, hexec⟩ | ⟨-, -, hexec⟩ := exec_cases .sm3Digest s
  · cases hcheck.symm.trans he
  · cases ht.symm.trans hexec
    refine ⟨loaded s (digestRegs s), ?_, rfl, rfl, rfl, rfl, rfl, rfl⟩
    rw [runCommands, exec_sm3Init]
    exact runCommands_blocks hlen hwritten (fun b => List.mem_range.1) ⟨sm3IV, s.b, s.w, s.wp⟩
  · cases ht.symm.trans hexec

end Sys2Proof.Proofs
